-- ==== Sys2Proof/Word.lean ====
section
/-! DEFINITION. The value types of 00_scope.md R7: bytes, 32-bit words, counts, symbols and bit strings. -/

namespace Sys2Proof

/-- A byte, 0 to 255; bit 7 is its most significant bit (R7). -/
abbrev Byte := BitVec 8

/-- A 32-bit word: a command word (R70) or a control and status register (R31). -/
abbrev Word := BitVec 32

/-- A count or node frequency: unsigned, `FREQ_W` = 32 bits (R6, R7). -/
abbrev Count := BitVec 32

/-- A symbol: a Unicode scalar value, 0 to 0x10FFFF without 0xD800 to 0xDFFF (R6, R22), `SYM_W` = 21 bits.
Lean's `Char` is exactly that set, so an ill-typed symbol (92_eei_decisions.md D30) cannot be written. -/
abbrev Symbol := Char

/-- A bit-string, first bit first (R7); `false` is the bit 0 and `true` the bit 1. -/
abbrev BitStr := List Bool

end Sys2Proof
end

