-- ==== Sys2Proof/Config.lean ====
section
/-! DEFINITION. What one instance of the block fixes: the open capacities of 00_scope.md R6 (92_eei_decisions.md D22).
The spec leaves no value free (93_implementation_defined.md, section 1), so there is no free value here. The one other open
parameter of the block, `tiebreak`, has its value fixed by 41_tree_builder.md R121; `buildWith` takes it as an argument. -/

namespace Sys2Proof

/-- The open capacities, "a model takes the record `Config` as an argument" (R6). -/
structure Config where
  /-- Capacity of TXI and of TXO in symbols. -/
  txtMax : Nat
  /-- Capacity of BYI, BYO, SER and PAY in bytes, each. -/
  bytMax : Nat
  /-- Capacity of BIT in bits. -/
  bitMax : Nat
  /-- Capacity of FT and of CT in entries. -/
  symsMax : Nat
  /-- Capacity of TREE in nodes. -/
  nodeMax : Nat
  /-- Greatest depth TSER, TDES and GENCODES handle. -/
  depthMax : Nat
deriving DecidableEq, Repr

/-- Every capacity at its upper bound (R6: "A model may set every open capacity to its upper bound"). NODE_MAX and DEPTH_MAX
have no stated bound; a tree text has fewer than 2^32 bytes, so 2^32 - 1 is beyond every tree. DESIGN CHOICE, unsafe for a
smaller instance: log entry 1. -/
def Config.upper : Config where
  txtMax := 4294967295
  bytMax := 4294967295
  bitMax := 4294967295
  symsMax := 1112064
  nodeMax := 4294967295
  depthMax := 4294967295

end Sys2Proof
end

