-- ==== Sys2Proof/Machine/State.lean ====
section
/-! DEFINITION. The state of the block (10_state.md) as plain data, the host's pending transactions, the reasons to refuse
one, and the state after reset. -/

namespace Sys2Proof.Machine

/-- The spec's `Option Tree` (10_state.md R24, R25): `absent` is `none` and `node f s l r` is
`some Node with frequency f, symbol s, left l, right r`. A finite, unshared, acyclic value. -/
inductive HuffTree where
  | absent
  | node (frequency : Count) (symbol : Option Symbol) (left right : HuffTree)
deriving DecidableEq, Repr

/-- A finite partial map with symbols as keys (R7), held in ONE canonical form: keys strictly ascending by numeric value.
A map has no order (R21); the canonical form makes equal maps equal data. -/
abbrev SymMap (α : Type) := List (Symbol × α)

/-- The error codes 1 to 13 of 60_exceptions.md R221. -/
inductive ErrCode where
  | short | magic | version | treeLen | traversal | padding | treeSyntax | payloadShort | leafNoSym | noCode | capacity
  | freqOverflow | illegalCmd
deriving DecidableEq, Repr

/-- The ten stores (R20, R21). -/
inductive Store where
  | txi | txo | byi | byo | ser | pay | bit | ft | tree | ct
deriving DecidableEq, Repr

/-- The value of a store or register as the host writes or reads it. -/
inductive HostValue where
  | symbols (v : List Symbol)
  | bytes (v : List Byte)
  | bits (v : BitStr)
  | counts (v : List (Symbol × Count))
  | codes (v : List (Symbol × BitStr))
  | word (v : Word)
deriving DecidableEq, Repr

/-- One host transaction (20_memory.md R61; RESET is R250). CSR numbers are indices (R31). -/
inductive HostTxn where
  | load (store : Store) (v : HostValue)
  | read (store : Store)
  | rdcsr (n : Nat)
  | wrcsr (n : Nat) (w : Word)
  | reset
deriving DecidableEq, Repr

/-- Nothing stops this block: an error is a next state (60_exceptions.md R231), so no constructor. Safe. -/
inductive Fault where
deriving DecidableEq, Repr

/-- Why a step or a command is refused. -/
inductive Refusal where
  /-- An instruction without a meaning yet; only exec's arms may answer it, and none does. Safe. -/
  | notModelled (mnemonic : String)
  /-- Raised by the step on a LOAD of TXO, BYO, TREE or CT, which the host cannot load (R39, U19: no such transaction). Safe. -/
  | loadNotPermitted (store : Store)
  /-- Raised by the step on a LOAD of a value that is not of the store's type, a repeated key included (R39, D30). Safe. -/
  | loadIllTyped (store : Store)
  /-- Raised by the step on a LOAD of a value above the store's capacity (R39, D30). Safe. -/
  | loadOverCapacity (store : Store)
  /-- Raised by the step on a READ of TREE, which is not addressable (R39, R50, U19). Safe. -/
  | readNotPermitted
deriving DecidableEq, Repr

/-- All the state the spec gives the block, and three fields of the model's own (`cfg`, `host`, `reply`). -/
structure State where
  /-- Model's own: the open capacities of this instance (R6); no transaction changes it (log entry 1). -/
  cfg : Config
  /-- TXI, the text to analyze or encode (R21, R22). -/
  txi : List Symbol
  /-- TXO, the text decoded (R21, R22). -/
  txo : List Symbol
  /-- BYI, the container to decode (R21, R28). -/
  byi : List Byte
  /-- BYO, the container produced (R21, R28). -/
  byo : List Byte
  /-- SER, the serialized tree (R21, R28). -/
  ser : List Byte
  /-- PAY, the packed payload (R21, R28). -/
  pay : List Byte
  /-- BIT, the bit-string (R21, R27). -/
  bit : BitStr
  /-- FT, the frequency table (R21, R23). -/
  ft : SymMap Count
  /-- CT, the code table (R21, R26). -/
  ct : SymMap BitStr
  /-- TREE, the Huffman tree or none (R21, R25). -/
  tree : HuffTree
  /-- STATUS bit 0, ERR (R34); bit 1 is a view of `tree`. -/
  err : Bool
  /-- ERRCODE (R35). -/
  errcode : Word
  /-- HDR_VER (R36). -/
  hdrVer : Word
  /-- HDR_PAD (R36). -/
  hdrPad : Word
  /-- HDR_OLEN (R36). -/
  hdrOlen : Word
  /-- HDR_TLEN (R36). -/
  hdrTlen : Word
  /-- Model's own: the host's transactions still to come, oldest first (R59, R61; log entry 2). -/
  host : List HostTxn
  /-- Model's own: what the last READ or RDCSR returned (R61; log entry 2). -/
  reply : Option HostValue
deriving DecidableEq, Repr

/-- The state after reset of an instance with capacities `c`: every store empty, every register 0 (R40, R250). -/
def State.resetOf (c : Config) : State where
  cfg := c
  txi := []
  txo := []
  byi := []
  byo := []
  ser := []
  pay := []
  bit := []
  ft := []
  ct := []
  tree := .absent
  err := false
  errcode := 0#32
  hdrVer := 0#32
  hdrPad := 0#32
  hdrOlen := 0#32
  hdrTlen := 0#32
  host := []
  reply := none

/-- The machine right after reset (R40), its capacities at their upper bounds (log entry 1), nothing pending (log entry 2). -/
def State.reset : State := State.resetOf Config.upper

end Sys2Proof.Machine
end

