-- ==== Sys2Proof/Machine/Ops.lean ====
section
/-! DEFINITION. The named operations of the block: map stores, whole-store updates (00_scope.md R8), CLEAR_WORK
(70_reset_and_hazards.md R252), error entry and the end of a command (60_exceptions.md R231). -/

namespace Sys2Proof.Machine

/-- What a command or a step answers. -/
abbrev Answer := Host.Outcome State Fault Refusal

/-! ### Map stores (R7, R21) -/

/-- `m[k]`, or none when `k` is no key of `m`. -/
def SymMap.get? {α : Type} (k : Symbol) : SymMap α → Option α
  | [] => none
  | (k', v) :: m => if k' = k then some v else SymMap.get? k m

/-- `m[k] <- v`: insertion or replacement (R7), at the place the ascending order of keys gives it. -/
def SymMap.insert {α : Type} (k : Symbol) (v : α) : SymMap α → SymMap α
  | [] => [(k, v)]
  | (k', v') :: m =>
    if k.toNat < k'.toNat then (k, v) :: (k', v') :: m
    else if k' = k then (k, v) :: m
    else (k', v') :: SymMap.insert k v m

/-- The map of a list of pairs, in canonical form whatever the order of the list; a later pair replaces an earlier one. -/
def SymMap.ofList {α : Type} (l : List (Symbol × α)) : SymMap α :=
  l.foldl (fun m kv => SymMap.insert kv.1 kv.2 m) []

/-- The canonical form: keys strictly ascending (so no key twice). -/
def SymMap.wf {α : Type} (m : SymMap α) : Bool :=
  decide (m.Pairwise fun a b => a.1.toNat < b.1.toNat)

/-- The canonical form of what the block holds keyed by address, its two map stores (20_memory.md R50). -/
def Memory.wf (s : State) : Bool := SymMap.wf s.ft && SymMap.wf s.ct

/-! ### Trees (R24) -/

/-- `n.frequency` (R24); 0 for no tree. -/
def HuffTree.freq : HuffTree → Count
  | .absent => 0#32
  | .node f _ _ _ => f

/-- "a node is a leaf iff both children are absent" (R24). -/
def HuffTree.isLeaf : HuffTree → Bool
  | .node _ _ .absent .absent => true
  | _ => false

/-- `TREE != none` (R30). -/
def HuffTree.present : HuffTree → Bool
  | .absent => false
  | .node _ _ _ _ => true

/-- `nodes(t)` (R124). -/
def HuffTree.nodes : HuffTree → Nat
  | .absent => 0
  | .node _ _ l r => l.nodes + r.nodes + 1

/-- The number of nodes on the longest path from the root down. -/
def HuffTree.levels : HuffTree → Nat
  | .absent => 0
  | .node _ _ l r => max l.levels r.levels + 1

/-- `depth(t)`, "the greatest number of edges from the root of `t` to any node" (R123). -/
def HuffTree.depth (t : HuffTree) : Nat := t.levels - 1

/-! ### Whole-store updates (R8): one per write set -/

/-- `TXI <- v` (the host's LOAD, R61). -/
def State.setTxi (s : State) (v : List Symbol) : State := { s with txi := v }

/-- `BYI <- v` (the host's LOAD, R61). -/
def State.setByi (s : State) (v : List Byte) : State := { s with byi := v }

/-- `PAY <- v` (the host's LOAD, R61). -/
def State.setPay (s : State) (v : List Byte) : State := { s with pay := v }

/-- `FT <- v`. -/
def State.setFt (s : State) (v : SymMap Count) : State := { s with ft := v }

/-- `TREE <- v`. -/
def State.setTree (s : State) (v : HuffTree) : State := { s with tree := v }

/-- `CT <- v`. -/
def State.setCt (s : State) (v : SymMap BitStr) : State := { s with ct := v }

/-- `BIT <- v`. -/
def State.setBit (s : State) (v : BitStr) : State := { s with bit := v }

/-- `SER <- v`. -/
def State.setSer (s : State) (v : List Byte) : State := { s with ser := v }

/-- `TXO <- v`. -/
def State.setTxo (s : State) (v : List Symbol) : State := { s with txo := v }

/-- The write set of PACK: PAY and HDR_PAD (R152). -/
def State.setPacked (s : State) (pay : List Byte) (pad : Word) : State := { s with pay := pay, hdrPad := pad }

/-- The write set of ASSEMBLE: BYO, HDR_VER, HDR_OLEN, HDR_TLEN (R153). -/
def State.setContainer (s : State) (byo : List Byte) (ver olen tlen : Word) : State :=
  { s with byo := byo, hdrVer := ver, hdrOlen := olen, hdrTlen := tlen }

/-- The write set of PARSE: SER, PAY and the four header registers (R170). -/
def State.setParsed (s : State) (ser pay : List Byte) (ver pad olen tlen : Word) : State :=
  { s with ser := ser, pay := pay, hdrVer := ver, hdrPad := pad, hdrOlen := olen, hdrTlen := tlen }

/-- CLEAR_WORK (R252): every store but TXI and BYI empty, the header registers 0, STATUS and ERRCODE untouched. -/
def State.clearWork (s : State) : State :=
  { s with
    ft := [], tree := .absent, ct := [], bit := [], ser := [], pay := [], byo := [], txo := [],
    hdrVer := 0#32, hdrPad := 0#32, hdrOlen := 0#32, hdrTlen := 0#32 }

/-- `TXI <- [] ; BYI <- []` (R190). -/
def State.clearInputs (s : State) : State := { s with txi := [], byi := [] }

/-- The whole block as reset leaves it (R40, R250): every store empty, every register 0. What is the host's own, its pending
transactions and the answer it holds, and the instance's capacities stay. -/
def State.resetBlock (s : State) : State :=
  { State.resetOf s.cfg with host := s.host, reply := s.reply }

/-- The host has issued its oldest pending transaction (R59). -/
def State.dropTxn (s : State) : State := { s with host := s.host.tail }

/-- The host holds the answer of a READ or RDCSR (R61). -/
def State.setReply (s : State) (v : HostValue) : State := { s with reply := some v }

/-! ### The end of a command, and error entry (R231) -/

/-- The numbers of R221. -/
def ErrCode.code : ErrCode → Word
  | .short => 1#32
  | .magic => 2#32
  | .version => 3#32
  | .treeLen => 4#32
  | .traversal => 5#32
  | .padding => 6#32
  | .treeSyntax => 7#32
  | .payloadShort => 8#32
  | .leafNoSym => 9#32
  | .noCode => 10#32
  | .capacity => 11#32
  | .freqOverflow => 12#32
  | .illegalCmd => 13#32

/-- A command that ends without error: `STATUS.ERR <- 0`, `ERRCODE <- 0` (R231). -/
def State.endOk (s : State) : State := { s with err := false, errcode := 0#32 }

/-- Error entry (R231): `STATUS.ERR <- 1`, `ERRCODE <- code`. There is no vector, no saved state and no mode change; the caller
gives the state whose write set is already emptied. -/
def State.takeError (s : State) (e : ErrCode) : State := { s with err := true, errcode := e.code }

/-- The end of every command (R231): on success the stores as its rule leaves them, on a raise `emptied` with the error. -/
def endCommand (emptied : State) : Except ErrCode State → Answer
  | .ok t => .next t.endOk
  | .error e => .next (emptied.takeError e)

end Sys2Proof.Machine
end

