-- ==== Sys2Proof/Machine/Control.lean ====
section
/-! DEFINITION. CLEAR (45_control.md R190). -/

namespace Sys2Proof.Machine

/-- CLEAR (R190): the inputs emptied, CLEAR_WORK, the error registers zeroed. It cannot fail (R231). -/
def execClear (s : State) : Host.Outcome State Fault Refusal :=
  .next s.clearInputs.clearWork.endOk

end Sys2Proof.Machine
end

