-- ==== Sys2Proof/Machine/Operands.lean ====
section
/-! DEFINITION. Operand assembly. A command carries no operand; "the operand assembly this block does have is of data"
(30_encoding.md R73): big-endian numbers, bits and bytes, decimal numbers, UTF-8 and the container. -/

namespace Sys2Proof.Machine

/-! ### Big-endian 32-bit numbers (20_memory.md R52) -/

/-- `be32_bytes(v)`: most significant byte first. -/
def be32Bytes (v : Word) : List Byte :=
  [v.extractLsb' 24 8, v.extractLsb' 16 8, v.extractLsb' 8 8, v.extractLsb' 0 8]

/-- `be32(b0, b1, b2, b3)`. -/
def be32 (b0 b1 b2 b3 : Byte) : Word :=
  BitVec.ofNat 32 (b0.toNat * 16777216 + b1.toNat * 65536 + b2.toNat * 256 + b3.toNat)

/-- Byte `i` of a byte store; every rule guards its indices by the length (R63). -/
def byteAt (b : List Byte) (i : Nat) : Byte := b.getD i 0#8

/-- The big-endian number at offset `off` (R8, R52). -/
def be32At (b : List Byte) (off : Nat) : Word :=
  be32 (byteAt b off) (byteAt b (off + 1)) (byteAt b (off + 2)) (byteAt b (off + 3))

/-! ### Bits and bytes, most significant bit first (20_memory.md R53) -/

/-- A byte as its eight bits, bit 7 first. -/
def byteBits (b : Byte) : BitStr :=
  [b.getLsbD 7, b.getLsbD 6, b.getLsbD 5, b.getLsbD 4, b.getLsbD 3, b.getLsbD 2, b.getLsbD 1, b.getLsbD 0]

/-- The byte of eight bits, the first being bit 7. -/
def bitsByte (b7 b6 b5 b4 b3 b2 b1 b0 : Bool) : Byte :=
  BitVec.ofNat 8
    (b7.toNat * 128 + b6.toNat * 64 + b5.toNat * 32 + b4.toNat * 16 + b3.toNat * 8 + b2.toNat * 4 + b1.toNat * 2 + b0.toNat)

/-- A bit-string in 8-bit chunks, each a byte; a last chunk of fewer than 8 bits makes none (PACK pads first). -/
def packBytes : BitStr → List Byte
  | b7 :: b6 :: b5 :: b4 :: b3 :: b2 :: b1 :: b0 :: rest => bitsByte b7 b6 b5 b4 b3 b2 b1 b0 :: packBytes rest
  | _ => []

/-- Every byte expanded, first byte first. -/
def unpackBits (b : List Byte) : BitStr := b.flatMap byteBits

/-- The number of zeros PACK adds to `n` bits (R152): 0 to 7. -/
def padCount (n : Nat) : Nat := (8 - n % 8) % 8

/-! ### Decimal numbers (30_encoding.md R86) -/

/-- The ASCII digit of `d < 10`. -/
def digitByte (d : Nat) : Byte := BitVec.ofNat 8 (48 + d)

/-- The digits of `n` before `acc`, most significant first, at most `fuel` of them. -/
def decDigits : Nat → Nat → List Byte → List Byte
  | 0, _, acc => acc
  | fuel + 1, n, acc => if n < 10 then digitByte n :: acc else decDigits fuel (n / 10) (digitByte (n % 10) :: acc)

/-- `dec(v)`: no leading zero, `"0"` for zero (R86). A 32-bit value has at most ten digits. -/
def dec (v : Count) : List Byte := decDigits 10 v.toNat []

/-- An ASCII digit's value. -/
def digitVal (b : Byte) : Option Nat := if 48 ≤ b.toNat ∧ b.toNat ≤ 57 then some (b.toNat - 48) else none

/-- The leading digits of a text, as a number after `acc`, and the rest. -/
def takeDigits : List Byte → Nat → Nat × List Byte
  | [], acc => (acc, [])
  | b :: bs, acc =>
    match digitVal b with
    | some d => takeDigits bs (acc * 10 + d)
    | none => (acc, b :: bs)

/-- A `uint` (R85, R86): `"0"`, or digits with no leading zero; a value above 2^32 - 1 is no `uint`. -/
def parseUint : List Byte → Option (Count × List Byte)
  | [] => none
  | b :: bs =>
    match digitVal b with
    | none => none
    | some d =>
      if d = 0 then some (0#32, bs)
      else if (takeDigits bs d).1 < 4294967296 then
        some (BitVec.ofNat 32 (takeDigits bs d).1, (takeDigits bs d).2)
      else none

/-! ### UTF-8 (30_encoding.md R91) -/

/-- The UTF-8 bytes of a scalar value, by the table of R91. -/
def utf8 (s : Symbol) : List Byte :=
  if s.toNat < 0x80 then [BitVec.ofNat 8 s.toNat]
  else if s.toNat < 0x800 then [BitVec.ofNat 8 (0xC0 + s.toNat / 64), BitVec.ofNat 8 (0x80 + s.toNat % 64)]
  else if s.toNat < 0x10000 then
    [BitVec.ofNat 8 (0xE0 + s.toNat / 4096), BitVec.ofNat 8 (0x80 + s.toNat / 64 % 64),
      BitVec.ofNat 8 (0x80 + s.toNat % 64)]
  else
    [BitVec.ofNat 8 (0xF0 + s.toNat / 262144), BitVec.ofNat 8 (0x80 + s.toNat / 4096 % 64),
      BitVec.ofNat 8 (0x80 + s.toNat / 64 % 64), BitVec.ofNat 8 (0x80 + s.toNat % 64)]

/-- The symbol of a scalar value; none for a surrogate or a number above 0x10FFFF (R6). -/
def scalar? (n : Nat) : Option Symbol :=
  if n < 0xD800 ∨ (0xDFFF < n ∧ n < 0x110000) then some (Char.ofNat n) else none

/-- The six payload bits of a continuation byte `10xxxxxx`. -/
def contBits (b : Byte) : Option Nat := if b.toNat / 64 = 2 then some (b.toNat % 64) else none

/-- One UTF-8 sequence at the head of a text, decoded strictly (R91): the shortest form of a scalar value and nothing else. -/
def utf8Decode : List Byte → Option (Symbol × List Byte)
  | [] => none
  | b0 :: r =>
    if b0.toNat < 0x80 then (scalar? b0.toNat).map fun c => (c, r)
    else if b0.toNat < 0xC0 then none
    else if b0.toNat < 0xE0 then
      match r with
      | b1 :: r1 => do
        let c1 ← contBits b1
        if (b0.toNat - 0xC0) * 64 + c1 < 0x80 then none
        else (scalar? ((b0.toNat - 0xC0) * 64 + c1)).map fun c => (c, r1)
      | _ => none
    else if b0.toNat < 0xF0 then
      match r with
      | b1 :: b2 :: r2 => do
        let c1 ← contBits b1
        let c2 ← contBits b2
        if (b0.toNat - 0xE0) * 4096 + c1 * 64 + c2 < 0x800 then none
        else (scalar? ((b0.toNat - 0xE0) * 4096 + c1 * 64 + c2)).map fun c => (c, r2)
      | _ => none
    else if b0.toNat < 0xF8 then
      match r with
      | b1 :: b2 :: b3 :: r3 => do
        let c1 ← contBits b1
        let c2 ← contBits b2
        let c3 ← contBits b3
        if (b0.toNat - 0xF0) * 262144 + c1 * 4096 + c2 * 64 + c3 < 0x10000 then none
        else (scalar? ((b0.toNat - 0xF0) * 262144 + c1 * 4096 + c2 * 64 + c3)).map fun c => (c, r3)
      | _ => none
    else none

/-! ### The container (30_encoding.md R80 to R83) -/

/-- The magic, ASCII `HUFF` (R80). -/
def magicBytes : List Byte := [0x48#8, 0x55#8, 0x46#8, 0x46#8]

/-- `container(ver, pad, olen, ser, pay)` (R81). -/
def container (ver pad : Byte) (olen : Word) (ser pay : List Byte) : List Byte :=
  magicBytes ++ [ver] ++ [pad] ++ be32Bytes olen ++ be32Bytes (BitVec.ofNat 32 ser.length) ++ ser ++ pay

/-- The empty record, the serialized form of no tree (R83, R92). -/
def emptyRecord : List Byte := [0x7B#8, 0x7D#8]

end Sys2Proof.Machine
end

