-- ==== Sys2Proof/Machine/TreeText.lean ====
section
/-! DEFINITION. The serialized tree: the emitter `ser` (30_encoding.md R89) and the parser `des` (R90) of the byte grammar of
R85 to R88 and R92. A fixed piece of text is given as its ASCII bytes. -/

namespace Sys2Proof.Machine

/-- The brace, the quoted key `frequency` and a colon, that open a node. -/
def txtFrequency : List Byte :=
  [0x7B#8, 0x22#8, 0x66#8, 0x72#8, 0x65#8, 0x71#8, 0x75#8, 0x65#8, 0x6E#8, 0x63#8, 0x79#8, 0x22#8, 0x3A#8]

/-- A comma, the quoted key `symbol` and a colon. -/
def txtSymbol : List Byte := [0x2C#8, 0x22#8, 0x73#8, 0x79#8, 0x6D#8, 0x62#8, 0x6F#8, 0x6C#8, 0x22#8, 0x3A#8]

/-- A comma, the quoted key `isLeaf` and a colon. -/
def txtIsLeaf : List Byte := [0x2C#8, 0x22#8, 0x69#8, 0x73#8, 0x4C#8, 0x65#8, 0x61#8, 0x66#8, 0x22#8, 0x3A#8]

/-- A comma, the quoted key `left` and a colon. -/
def txtLeft : List Byte := [0x2C#8, 0x22#8, 0x6C#8, 0x65#8, 0x66#8, 0x74#8, 0x22#8, 0x3A#8]

/-- A comma, the quoted key `right` and a colon. -/
def txtRight : List Byte := [0x2C#8, 0x22#8, 0x72#8, 0x69#8, 0x67#8, 0x68#8, 0x74#8, 0x22#8, 0x3A#8]

/-- `true`. -/
def txtTrue : List Byte := [0x74#8, 0x72#8, 0x75#8, 0x65#8]

/-- `false`. -/
def txtFalse : List Byte := [0x66#8, 0x61#8, 0x6C#8, 0x73#8, 0x65#8]

/-- `null`. -/
def txtNull : List Byte := [0x6E#8, 0x75#8, 0x6C#8, 0x6C#8]

/-- A double quote. -/
def txtQuote : List Byte := [0x22#8]

/-- The closing brace of a node. -/
def txtClose : List Byte := [0x7D#8]

/-- A backslash and `u00`. -/
def txtU00 : List Byte := [0x5C#8, 0x75#8, 0x30#8, 0x30#8]

/-! ### The emitter (R89) -/

/-- A lower-case hexadecimal digit, `d < 16`. -/
def hexByte (d : Nat) : Byte := if d < 10 then BitVec.ofNat 8 (48 + d) else BitVec.ofNat 8 (87 + d)

/-- `esc(s)` (R87, R89). -/
def esc (s : Symbol) : List Byte :=
  if s.toNat = 0x22 then [0x5C#8, 0x22#8]
  else if s.toNat = 0x5C then [0x5C#8, 0x5C#8]
  else if s.toNat < 0x20 then txtU00 ++ [hexByte (s.toNat / 16), hexByte (s.toNat % 16)]
  else utf8 s

/-- `symtext` (R87, R89). -/
def symtext : Option Symbol → List Byte
  | none => txtNull
  | some s => txtQuote ++ esc s ++ txtQuote

/-- The `isLeaf` word (R88): `true` when both children are absent. -/
def flagText (isLeaf : Bool) : List Byte := if isLeaf then txtTrue else txtFalse

/-- A child member (R84): the key and the record, or nothing at all for an absent child. -/
def memberText (key : List Byte) (child : HuffTree) (text : List Byte) : List Byte :=
  if child.present then key ++ text else []

/-- `ser_node` (R89). -/
def serNode : HuffTree → List Byte
  | .absent => []
  | .node f s l r =>
    txtFrequency ++ dec f ++ txtSymbol ++ symtext s ++ txtIsLeaf ++ flagText (HuffTree.isLeaf (.node f s l r)) ++
      memberText txtLeft l (serNode l) ++ memberText txtRight r (serNode r) ++ txtClose

/-- `ser` (R89, R92). -/
def ser : HuffTree → List Byte
  | .absent => emptyRecord
  | .node f s l r => serNode (.node f s l r)

/-! ### The parser (R85 to R88, R90) -/

/-- The text after the prefix `p`, or none when it does not begin with `p`. -/
def strip : List Byte → List Byte → Option (List Byte)
  | [], b => some b
  | _ :: _, [] => none
  | x :: p, y :: b => if x = y then strip p b else none

/-- A lower-case hexadecimal digit's value. -/
def hexVal (b : Byte) : Option Nat :=
  if 48 ≤ b.toNat ∧ b.toNat ≤ 57 then some (b.toNat - 48)
  else if 97 ≤ b.toNat ∧ b.toNat ≤ 102 then some (b.toNat - 87)
  else none

/-- The escapes of `char` (R85, R87), at the backslash: a quote, a backslash, or `u00` and two digits for a value below 0x20. -/
def parseEscape (b : List Byte) : Option (Symbol × List Byte) :=
  match strip [0x5C#8, 0x22#8] b with
  | some r => some (Char.ofNat 0x22, r)
  | none =>
    match strip [0x5C#8, 0x5C#8] b with
    | some r => some (Char.ofNat 0x5C, r)
    | none =>
      match strip txtU00 b with
      | some (h :: l :: r) => do
        let hi ← hexVal h
        let lo ← hexVal l
        if hi < 2 then some (Char.ofNat (hi * 16 + lo), r) else none
      | _ => none

/-- `char` (R85): an escape, or a raw character that is not below 0x20, not a quote and not a backslash. -/
def parseChar (b : List Byte) : Option (Symbol × List Byte) :=
  match strip [0x5C#8] b with
  | some _ => parseEscape b
  | none => do
    let (c, r) ← utf8Decode b
    if c.toNat < 0x20 ∨ c.toNat = 0x22 ∨ c.toNat = 0x5C then none else some (c, r)

/-- `symval` (R85, R87): `null`, or exactly one character between quotes. -/
def parseSymval (b : List Byte) : Option (Option Symbol × List Byte) :=
  match strip txtNull b with
  | some r => some (none, r)
  | none => do
    let b ← strip txtQuote b
    let (c, b) ← parseChar b
    let b ← strip txtQuote b
    some (some c, b)

/-- `bool` (R85, R88): one of the two words; its value is ignored. -/
def parseFlag (b : List Byte) : Option (List Byte) :=
  match strip txtTrue b with
  | some r => some r
  | none => strip txtFalse b

/-- A child member (R84, R85): the key and what `parse` reads after it, or an absent child where the key does not stand. -/
def parseMember (parse : List Byte → Option (HuffTree × List Byte)) (key b : List Byte) : Option (HuffTree × List Byte) :=
  match strip key b with
  | some b' => parse b'
  | none => some (.absent, b)

/-- A `node` at the head of a text, and the rest (R85). `fuel` bounds the nesting. -/
def parseNode : Nat → List Byte → Option (HuffTree × List Byte)
  | 0, _ => none
  | fuel + 1, b => do
    let b ← strip txtFrequency b
    let (f, b) ← parseUint b
    let b ← strip txtSymbol b
    let (s, b) ← parseSymval b
    let b ← strip txtIsLeaf b
    let b ← parseFlag b
    let (l, b) ← parseMember (parseNode fuel) txtLeft b
    let (r, b) ← parseMember (parseNode fuel) txtRight b
    let b ← strip txtClose b
    some (.node f s l r, b)

/-- `des` (R90): `none` is `syntax_error`, `some .absent` is `ok none`, `some t` is `ok (some t)`. A text nests no deeper than it is
long, so its length is fuel enough. -/
def des (b : List Byte) : Option HuffTree :=
  if b = emptyRecord then some .absent
  else
    match parseNode b.length b with
    | some (t, []) => some t
    | _ => none

end Sys2Proof.Machine
end

