-- ==== Sys2Proof/Machine/TreeBuilder.lean ====
section
/-! DEFINITION. The tree builder: BUILD, TSER, TDES (41_tree_builder.md R120 to R127). -/

namespace Sys2Proof.Machine

/-- An element of BUILD's priority queue: a node and its sequence number `seq` (R121). -/
structure QNode where
  tree : HuffTree
  seq : Nat
deriving DecidableEq, Repr

/-- This hardware's tie-break (R121): lower frequency first, at equal frequency lower `seq` first. -/
def keyBefore (x y : QNode) : Bool :=
  decide (x.tree.freq.toNat < y.tree.freq.toNat) ||
    (decide (x.tree.freq.toNat = y.tree.freq.toNat) && decide (x.seq < y.seq))

/-- Remove from the queue the element least by `before` (R120). -/
def takeLeast (before : QNode → QNode → Bool) : List QNode → Option (QNode × List QNode)
  | [] => none
  | x :: q =>
    match takeLeast before q with
    | none => some (x, [])
    | some (m, rest) => if before m x then some (m, x :: rest) else some (x, m :: rest)

/-- The leaves of a table, numbered from `seq` in ascending order of their symbols (R120, R121). A key with count 0 gets a leaf like
any other (R126). -/
def leafQueue : SymMap Count → Nat → List QNode
  | [], _ => []
  | (k, c) :: m, seq => ⟨.node c (some k) .absent .absent, seq⟩ :: leafQueue m (seq + 1)

/-- The merge loop of R120: while two nodes are left, the first extracted becomes the left child and the second the right. Each turn
leaves one node fewer, so the queue's length is `fuel` enough. -/
def mergeAll (before : QNode → QNode → Bool) : Nat → List QNode → Nat → Except ErrCode HuffTree
  | 0, _, _ => .ok .absent
  | fuel + 1, q, seq =>
    match takeLeast before q with
    | none => .ok .absent
    | some (a, q1) =>
      match takeLeast before q1 with
      | none => .ok a.tree
      | some (b, q2) =>
        if a.tree.freq.toNat + b.tree.freq.toNat < 4294967296 then
          mergeAll before fuel (⟨.node (a.tree.freq + b.tree.freq) none a.tree b.tree, seq⟩ :: q2) (seq + 1)
        else .error .freqOverflow

/-- BUILD's tree of a table (R120), for any tie-break `before` (R121) and a capacity of `nodeMax` nodes. The check of the one-key
tree's two nodes is DEDUCED from R227: log entry 3. -/
def buildWith (before : QNode → QNode → Bool) (nodeMax : Nat) (ft : SymMap Count) : Except ErrCode HuffTree :=
  match ft with
  | [] => .ok .absent
  | [(k, c)] =>
    if nodeMax < 2 then .error .capacity
    else .ok (.node c none (.node c (some k) .absent .absent) .absent)
  | kc0 :: kc1 :: m =>
    if nodeMax < 2 * (kc0 :: kc1 :: m).length - 1 then .error .capacity
    else mergeAll before (kc0 :: kc1 :: m).length (leafQueue (kc0 :: kc1 :: m) 0) (kc0 :: kc1 :: m).length

/-- The stage BUILD (R120). -/
def stageBuild (s : State) : Except ErrCode State := do
  let t ← buildWith keyBefore s.cfg.nodeMax s.ft
  .ok (s.setTree t)

/-- BUILD (R120, R231). -/
def execBuild (s : State) : Host.Outcome State Fault Refusal :=
  endCommand (s.setTree .absent) (stageBuild s)

/-- The stage TSER (R123). -/
def stageTser (s : State) : Except ErrCode State :=
  if s.cfg.depthMax < s.tree.depth then .error .capacity
  else if s.cfg.bytMax < (ser s.tree).length then .error .capacity
  else .ok (s.setSer (ser s.tree))

/-- TSER (R123, R231). -/
def execTser (s : State) : Host.Outcome State Fault Refusal :=
  endCommand (s.setSer []) (stageTser s)

/-- The stage TDES (R124). No check is made of the tree itself (R25). -/
def stageTdes (s : State) : Except ErrCode State :=
  match des s.ser with
  | none => .error .treeSyntax
  | some .absent => .ok (s.setTree .absent)
  | some t =>
    if s.cfg.nodeMax < t.nodes ∨ s.cfg.depthMax < t.depth then .error .capacity
    else .ok (s.setTree t)

/-- TDES (R124, R231). -/
def execTdes (s : State) : Host.Outcome State Fault Refusal :=
  endCommand (s.setTree .absent) (stageTdes s)

end Sys2Proof.Machine
end

