-- ==== Sys2Proof/Machine/Decoder.lean ====
section
/-! DEFINITION. The decoder: PARSE, UNPACK, DECODE (44_decoder.md R170 to R179). -/

namespace Sys2Proof.Machine

/-- The parts of a container (R80), as PARSE writes them to its write set. -/
structure Parts where
  ser : List Byte
  pay : List Byte
  ver : Word
  pad : Word
  olen : Word
  tlen : Word
deriving DecidableEq, Repr

/-- PARSE on the bytes of BYI (R170): the five checks in this order, then the header fields and the two slices. The bound of R171 is
compared on natural numbers, so nothing wraps. -/
def parseContainer (b : List Byte) : Except ErrCode Parts :=
  if b.length < 14 then .error .short
  else if b.take 4 ≠ magicBytes then .error .magic
  else if byteAt b 4 ≠ 1#8 then .error .version
  else if 7 < (byteAt b 5).toNat then .error .padding
  else if b.length - 14 < (be32At b 10).toNat then .error .treeLen
  else
    .ok {
      ser := (b.drop 14).take (be32At b 10).toNat
      pay := b.drop (14 + (be32At b 10).toNat)
      ver := (byteAt b 4).setWidth 32
      pad := (byteAt b 5).setWidth 32
      olen := be32At b 6
      tlen := be32At b 10 }

/-- The stage PARSE (R170). -/
def stageParse (s : State) : Except ErrCode State := do
  let c ← parseContainer s.byi
  .ok (s.setParsed c.ser c.pay c.ver c.pad c.olen c.tlen)

/-- PARSE (R170, R231). -/
def execParse (s : State) : Host.Outcome State Fault Refusal :=
  endCommand (s.setParsed [] [] 0#32 0#32 0#32 0#32) (stageParse s)

/-- The child a bit selects (R173): `0` left, `1` right. -/
def HuffTree.child : HuffTree → Bool → HuffTree
  | .absent, _ => .absent
  | .node _ _ l _, false => l
  | .node _ _ _ r, true => r

/-- The walk of R173 from `node`, with `count` symbols still to emit. Within a turn: the bits' end, the absent child, the leaf's symbol,
in that order (R229). The bits after the last symbol are never looked at. -/
def walk (root : HuffTree) : HuffTree → BitStr → Nat → Except ErrCode (List Symbol)
  | _, _, 0 => .ok []
  | _, [], _ + 1 => .error .payloadShort
  | node, b :: bits, count + 1 =>
    match node.child b with
    | .absent => .error .traversal
    | .node f sym l r =>
      if HuffTree.isLeaf (.node f sym l r) then
        match sym with
        | none => .error .leafNoSym
        | some c => do
          let out ← walk root root bits count
          .ok (c :: out)
      else walk root (.node f sym l r) bits (count + 1)

/-- The payload's bits without the trailing padding (R172). -/
def keptBits (pay : List Byte) (pad : Word) : BitStr :=
  (unpackBits pay).take (if pad.toNat ≤ 8 * pay.length then 8 * pay.length - pad.toNat else 0)

/-- The text UNPACK makes (R172): empty when no symbol is asked for or there is no tree (D34), else the walk's. -/
def unpackText (tree : HuffTree) (bits : BitStr) (count : Nat) : Except ErrCode (List Symbol) :=
  if count = 0 ∨ tree = .absent then .ok [] else walk tree tree bits count

/-- The stage UNPACK (R172). The check of TXO against TXT_MAX is DEDUCED from R22 and R227: log entry 3. -/
def stageUnpack (s : State) : Except ErrCode State :=
  let bits := keptBits s.pay s.hdrPad
  if s.cfg.bitMax < bits.length then .error .capacity
  else do
    let text ← unpackText s.tree bits s.hdrOlen.toNat
    if s.cfg.txtMax < text.length then .error .capacity
    else .ok ((s.setBit bits).setTxo text)

/-- UNPACK (R172, R231). -/
def execUnpack (s : State) : Host.Outcome State Fault Refusal :=
  endCommand ((s.setBit []).setTxo []) (stageUnpack s)

/-- DECODE's stages (R174) from a cleared working state, with its two early ends. -/
def stagesDecode (s : State) : Except ErrCode State := do
  let s ← stageParse s
  if s.hdrOlen = 0#32 then .ok (s.setTxo [])
  else do
    let s ← stageTdes s
    if s.tree = .absent then .ok (s.setTxo [])
    else stageUnpack s

/-- DECODE (R174, R231). -/
def execDecode (s : State) : Host.Outcome State Fault Refusal :=
  endCommand s.clearWork (stagesDecode s.clearWork)

end Sys2Proof.Machine
end

