-- ==== Sys2Proof/Machine/CodeTable.lean ====
section
/-! DEFINITION. The code table generator: GENCODES (42_code_table_gen.md R140). -/

namespace Sys2Proof.Machine

/-- The code recorded at a leaf reached by the path `p`: `p`, or `"0"` when the path is empty (R140, corner case 3). -/
def leafCode (p : BitStr) : BitStr := if p = [] then [false] else p

/-- `visit(n, p)` of R140: depth first, left before right; a leaf's symbol is recorded, the last leaf winning. -/
def visit : HuffTree → BitStr → SymMap BitStr → SymMap BitStr
  | .absent, _, ct => ct
  | .node f s l r, p, ct =>
    if HuffTree.isLeaf (.node f s l r) then
      match s with
      | some c => SymMap.insert c (leafCode p) ct
      | none => ct
    else visit r (p ++ [true]) (visit l (p ++ [false]) ct)

/-- The code table of a tree (R140). -/
def codesOf (t : HuffTree) : SymMap BitStr := visit t [] []

/-- The stage GENCODES (R140). -/
def stageGencodes (s : State) : Except ErrCode State :=
  if s.cfg.depthMax < s.tree.depth then .error .capacity
  else if s.cfg.symsMax < (codesOf s.tree).length then .error .capacity
  else .ok (s.setCt (codesOf s.tree))

/-- GENCODES (R140, R231). -/
def execGencodes (s : State) : Host.Outcome State Fault Refusal :=
  endCommand (s.setCt []) (stageGencodes s)

end Sys2Proof.Machine
end

