-- ==== Sys2Proof/Machine/FreqAnalyze.lean ====
section
/-! DEFINITION. The frequency analyzer: ANALYZE (40_freq_analyze.md R110). -/

namespace Sys2Proof.Machine

/-- One turn of ANALYZE's loop (R110). -/
def countSymbol (ft : SymMap Count) (c : Symbol) : SymMap Count :=
  match SymMap.get? c ft with
  | some n => SymMap.insert c (n + 1#32) ft
  | none => SymMap.insert c 1#32 ft

/-- The frequency table of a text (R110). -/
def countSymbols (text : List Symbol) : SymMap Count := text.foldl countSymbol []

/-- The stage ANALYZE (R110). -/
def stageAnalyze (s : State) : Except ErrCode State :=
  if s.cfg.symsMax < (countSymbols s.txi).length then .error .capacity
  else .ok (s.setFt (countSymbols s.txi))

/-- ANALYZE (R110, R231). -/
def execAnalyze (s : State) : Host.Outcome State Fault Refusal :=
  endCommand (s.setFt []) (stageAnalyze s)

end Sys2Proof.Machine
end

