-- ==== Sys2Proof/Machine/Encoder.lean ====
section
/-! DEFINITION. The encoder: BUILDTXT, MAPBITS, PACK, ASSEMBLE, ENCODE (43_encoder.md R150 to R156). -/

namespace Sys2Proof.Machine

/-- The three stages of BUILDTXT in order, from a cleared working state (R150). -/
def stagesBuildtxt (s : State) : Except ErrCode State := do
  let s ← stageAnalyze s
  let s ← stageBuild s
  stageGencodes s

/-- BUILDTXT (R150, R231). -/
def execBuildtxt (s : State) : Host.Outcome State Fault Refusal :=
  endCommand s.clearWork (stagesBuildtxt s.clearWork)

/-- The bits of a text under a code table (R151). -/
def mapBits (ct : SymMap BitStr) : List Symbol → Except ErrCode BitStr
  | [] => .ok []
  | c :: text =>
    match SymMap.get? c ct with
    | none => .error .noCode
    | some code => do
      let bits ← mapBits ct text
      .ok (code ++ bits)

/-- The stage MAPBITS (R151). -/
def stageMapbits (s : State) : Except ErrCode State := do
  let bits ← mapBits s.ct s.txi
  if s.cfg.bitMax < bits.length then .error .capacity
  else .ok (s.setBit bits)

/-- MAPBITS (R151, R231). -/
def execMapbits (s : State) : Host.Outcome State Fault Refusal :=
  endCommand (s.setBit []) (stageMapbits s)

/-- The stage PACK (R152). -/
def stagePack (s : State) : Except ErrCode State :=
  let pad := padCount s.bit.length
  if s.cfg.bytMax < (s.bit.length + pad) / 8 then .error .capacity
  else .ok (s.setPacked (packBytes (s.bit ++ List.replicate pad false)) (BitVec.ofNat 32 pad))

/-- PACK (R152, R231). -/
def execPack (s : State) : Host.Outcome State Fault Refusal :=
  endCommand (s.setPacked [] 0#32) (stagePack s)

/-- The container ASSEMBLE joins (R153): version 1, the padding byte `HDR_PAD[7:0]`, `|TXI|`, SER, PAY. -/
def assembled (s : State) : List Byte :=
  container 1#8 (s.hdrPad.extractLsb' 0 8) (BitVec.ofNat 32 s.txi.length) s.ser s.pay

/-- The stage ASSEMBLE (R153). -/
def stageAssemble (s : State) : Except ErrCode State :=
  if s.cfg.bytMax < (assembled s).length then .error .capacity
  else .ok (s.setContainer (assembled s) 1#32 (BitVec.ofNat 32 s.txi.length) (BitVec.ofNat 32 s.ser.length))

/-- ASSEMBLE (R153, R231). -/
def execAssemble (s : State) : Host.Outcome State Fault Refusal :=
  endCommand (s.setContainer [] 0#32 0#32 0#32) (stageAssemble s)

/-- The empty-file container (R83). -/
def emptyFile : List Byte := container 1#8 0#8 0#32 emptyRecord []

/-- ENCODE's arm for an empty text (R154), from a cleared working state. The capacity check is DEDUCED from R227 and from "the
special branch gives the same state the general branch would give": log entry 3. -/
def stageEmptyFile (s : State) : Except ErrCode State :=
  if s.cfg.bytMax < emptyFile.length then .error .capacity
  else .ok (((s.setSer emptyRecord).setPacked [] 0#32).setContainer emptyFile 1#32 0#32 2#32)

/-- ENCODE's stages for a non-empty text (R154), from a cleared working state. -/
def stagesEncode (s : State) : Except ErrCode State := do
  let s ← stageAnalyze s
  let s ← stageBuild s
  let s ← stageGencodes s
  let s ← stageMapbits s
  let s ← stagePack s
  let s ← stageTser s
  stageAssemble s

/-- ENCODE (R154, R231). -/
def execEncode (s : State) : Host.Outcome State Fault Refusal :=
  endCommand s.clearWork
    (if s.txi.length = 0 then stageEmptyFile s.clearWork else stagesEncode s.clearWork)

end Sys2Proof.Machine
end

