-- ==== Sys2Proof/Syntax.lean ====
section
/-! DEFINITION. The fourteen commands of the block, one constructor per row of spec/opcode_table.json
(30_encoding.md R71). A command has no operand (R70): each works on the fixed stores its rule names. -/

namespace Sys2Proof

inductive Instr where
  | clear
  | analyze
  | build
  | tser
  | tdes
  | gencodes
  | buildtxt
  | mapbits
  | pack
  | assemble
  | encode
  | parse
  | unpack
  | decode
deriving DecidableEq, Repr

end Sys2Proof
end

