-- ==== Sys2Proof/Machine/Dispatch.lean ====
section
/-! DEFINITION. The meaning of each command (30_encoding.md R71), one arm per constructor. -/

namespace Sys2Proof.Machine

def exec (i : Instr) (s : State) : Host.Outcome State Fault Refusal :=
  match i with
  | .clear => Sys2Proof.Machine.execClear s
  | .analyze => Sys2Proof.Machine.execAnalyze s
  | .build => Sys2Proof.Machine.execBuild s
  | .tser => Sys2Proof.Machine.execTser s
  | .tdes => Sys2Proof.Machine.execTdes s
  | .gencodes => Sys2Proof.Machine.execGencodes s
  | .buildtxt => Sys2Proof.Machine.execBuildtxt s
  | .mapbits => Sys2Proof.Machine.execMapbits s
  | .pack => Sys2Proof.Machine.execPack s
  | .assemble => Sys2Proof.Machine.execAssemble s
  | .encode => Sys2Proof.Machine.execEncode s
  | .parse => Sys2Proof.Machine.execParse s
  | .unpack => Sys2Proof.Machine.execUnpack s
  | .decode => Sys2Proof.Machine.execDecode s

end Sys2Proof.Machine
end

