-- ==== Sys2Proof/WellFormed.lean ====
section
/-! DEFINITION. What is well formed before anything runs: a command, a command word of format C (30_encoding.md R70), an
instance's capacities (00_scope.md R6). -/

namespace Sys2Proof

/-- A command has no operand (R70), so every command is well formed. -/
def Instr.wf : Instr → Bool
  | .clear | .analyze | .build | .tser | .tdes | .gencodes | .buildtxt | .mapbits | .pack | .assemble | .encode
  | .parse | .unpack | .decode => true

/-- Format C (R70): bits 31:8, the field `zero`, "must be 0". -/
def formatC (w : Word) : Bool := w.extractLsb' 8 24 == 0#24

/-- The bounds R6 sets on the open capacities: the lengths fit 32 bits and there are 1,112,064 scalar values. -/
def Config.wf (c : Config) : Bool :=
  decide (c.txtMax ≤ 4294967295) && decide (c.bytMax ≤ 4294967295) && decide (c.bitMax ≤ 4294967295) &&
    decide (c.symsMax ≤ 1112064)

end Sys2Proof
end

