-- ==== Sys2Proof/Decode.lean ====
section
/-! DEFINITION. The command encoding of 30_encoding.md R70 to R72: one 32-bit word, matched in full. -/

namespace Sys2Proof

/-- Why a word is no command (R72). -/
inductive DecodeReject where
  /-- A bit of 31:8 is set. Raised as E_ILLEGAL_CMD by the step (R191); a defined error, safe. -/
  | zeroFieldSet
  /-- Bits 31:8 are 0 and `op` is none of the fourteen codes. Raised as E_ILLEGAL_CMD by the step (R191); safe. -/
  | opUnlisted
deriving DecidableEq, Repr

/-- The `op` field, bits 7:0 (R70). -/
def opField (w : Word) : Byte := w.extractLsb' 0 8

/-- The code of R71 in `op`, or none. -/
def decodeOp (op : Byte) : Option Instr :=
  if op = 0x01#8 then some .clear
  else if op = 0x10#8 then some .analyze
  else if op = 0x20#8 then some .build
  else if op = 0x21#8 then some .tser
  else if op = 0x22#8 then some .tdes
  else if op = 0x30#8 then some .gencodes
  else if op = 0x40#8 then some .buildtxt
  else if op = 0x41#8 then some .mapbits
  else if op = 0x42#8 then some .pack
  else if op = 0x43#8 then some .assemble
  else if op = 0x4F#8 then some .encode
  else if op = 0x50#8 then some .parse
  else if op = 0x51#8 then some .unpack
  else if op = 0x5F#8 then some .decode
  else none

/-- The command a word encodes, or why it encodes none (R70 to R72). Total on all 2^32 words. -/
def decode (w : Word) : Except DecodeReject Instr :=
  if formatC w then
    match decodeOp (opField w) with
    | some i => .ok i
    | none => .error .opUnlisted
  else .error .zeroFieldSet

/-- The word of a command, from the table of R71. -/
def encode : Instr → Word
  | .clear => 0x00000001#32
  | .analyze => 0x00000010#32
  | .build => 0x00000020#32
  | .tser => 0x00000021#32
  | .tdes => 0x00000022#32
  | .gencodes => 0x00000030#32
  | .buildtxt => 0x00000040#32
  | .mapbits => 0x00000041#32
  | .pack => 0x00000042#32
  | .assemble => 0x00000043#32
  | .encode => 0x0000004F#32
  | .parse => 0x00000050#32
  | .unpack => 0x00000051#32
  | .decode => 0x0000005F#32

/-- The decoder on a table word: the low `nbits` bits of `w`, every higher bit 0. A command is one 32-bit word (R70), so a value
that does not fit 32 bits is no command. -/
def decodeTableWord (nbits w : Nat) : Option Instr :=
  if w % 2 ^ nbits < 4294967296 then
    match decode (BitVec.ofNat 32 (w % 2 ^ nbits)) with
    | .ok i => some i
    | .error _ => none
  else none

end Sys2Proof
end

