-- ==== Sys2Proof/Machine/Flags.lean ====
section
/-! DEFINITION. The flags and the control and status registers as the host reads them (10_state.md R30 to R37). -/

namespace Sys2Proof.Machine

/-- STATUS (R34): bit 0 ERR, bit 1 TREE_PRESENT, bits 31:2 read as 0. -/
def statusWord (s : State) : Word :=
  BitVec.ofNat 32 (s.err.toNat + 2 * s.tree.present.toNat)

/-- ID (R32): `HUF` and the container format version 1. -/
def idWord : Word := 0x48554601#32

/-- A length register (R37), a view of its store. -/
def lenWord {α : Type} (l : List α) : Word := BitVec.ofNat 32 l.length

/-- `csr[n]` as the host reads it (R31): CMD reads 0, and so does every number above 16. -/
def csrRead (s : State) (n : Nat) : Word :=
  match n with
  | 0 => idWord
  | 1 => 0#32
  | 2 => statusWord s
  | 3 => s.errcode
  | 4 => s.hdrVer
  | 5 => s.hdrPad
  | 6 => s.hdrOlen
  | 7 => s.hdrTlen
  | 8 => lenWord s.txi
  | 9 => lenWord s.txo
  | 10 => lenWord s.byi
  | 11 => lenWord s.byo
  | 12 => lenWord s.ser
  | 13 => lenWord s.pay
  | 14 => lenWord s.bit
  | 15 => lenWord s.ft
  | 16 => lenWord s.ct
  | _ => 0#32

end Sys2Proof.Machine
end

