-- ==== Sys2Proof/Machine/HostPort.lean ====
section
/-! DEFINITION. The host's side (20_memory.md R61): what a transaction does, and where the block's next command comes from. -/

namespace Sys2Proof.Machine

/-- The command word the host's next transaction writes to CMD (R33), or none when it does something else or nothing is pending. -/
def pendingWord (s : State) : Option Word :=
  match s.host with
  | .wrcsr 1 w :: _ => some w
  | _ => none

/-- An illegal command word (R191): the error registers, and no store and no header register. -/
def illegalCommand (s : State) : Answer := .next (s.takeError .illegalCmd)

/-- A sequence loaded into a store: refused above the store's capacity (R39, D30). -/
def loadSeq {α : Type} (store : Store) (cap : Nat) (v : List α) (t : State) : Answer :=
  if cap < v.length then .refused (.loadOverCapacity store) else .next t

/-- LOAD (R61): `S <- v` and nothing else (R57), for the six stores the host may load (R39). A map's value may list its keys in any
order, each once. -/
def hostLoad (store : Store) (v : HostValue) (s : State) : Answer :=
  match store, v with
  | .txi, .symbols v => loadSeq .txi s.cfg.txtMax v (s.setTxi v)
  | .byi, .bytes v => loadSeq .byi s.cfg.bytMax v (s.setByi v)
  | .ser, .bytes v => loadSeq .ser s.cfg.bytMax v (s.setSer v)
  | .pay, .bytes v => loadSeq .pay s.cfg.bytMax v (s.setPay v)
  | .bit, .bits v => loadSeq .bit s.cfg.bitMax v (s.setBit v)
  | .ft, .counts v =>
    if (v.map Prod.fst).Nodup then loadSeq .ft s.cfg.symsMax v (s.setFt (SymMap.ofList v))
    else .refused (.loadIllTyped .ft)
  | .txo, _ => .refused (.loadNotPermitted .txo)
  | .byo, _ => .refused (.loadNotPermitted .byo)
  | .tree, _ => .refused (.loadNotPermitted .tree)
  | .ct, _ => .refused (.loadNotPermitted .ct)
  | store, _ => .refused (.loadIllTyped store)

/-- READ (R61) of every store but TREE (R39): the value of the store, and no side effect on the block (R57). -/
def hostRead (store : Store) (s : State) : Answer :=
  match store with
  | .txi => .next (s.setReply (.symbols s.txi))
  | .txo => .next (s.setReply (.symbols s.txo))
  | .byi => .next (s.setReply (.bytes s.byi))
  | .byo => .next (s.setReply (.bytes s.byo))
  | .ser => .next (s.setReply (.bytes s.ser))
  | .pay => .next (s.setReply (.bytes s.pay))
  | .bit => .next (s.setReply (.bits s.bit))
  | .ft => .next (s.setReply (.counts s.ft))
  | .ct => .next (s.setReply (.codes s.ct))
  | .tree => .refused .readNotPermitted

/-- A transaction that writes no command word. A WRCSR here is to a register other than CMD and is ignored (R31, R57); RESET is R250. -/
def hostTxn (t : HostTxn) (s : State) : Answer :=
  match t with
  | .load store v => hostLoad store v s
  | .read store => hostRead store s
  | .rdcsr n => .next (s.setReply (.word (csrRead s n)))
  | .wrcsr _ _ => .next s
  | .reset => .next s.resetBlock

/-- What a step does when the host's next transaction is no command: that transaction; with none pending the block is idle, "nothing
advances on its own" (R29). -/
def hostStep (s : State) : Answer :=
  match s.host with
  | [] => .next s
  | t :: _ => hostTxn t s.dropTxn

end Sys2Proof.Machine
end

