-- ==== Sys2Proof/Machine/Step.lean ====
section
/-! DEFINITION. One step: the host's next transaction, complete before the next (20_memory.md R59). A write to CMD executes the command
its word encodes (10_state.md R33), an illegal word is E_ILLEGAL_CMD (45_control.md R191). -/

namespace Sys2Proof.Machine

def step (s : State) : Host.Outcome State Fault Refusal :=
  match pendingWord s with
  | some w =>
    match decode w with
    | .ok i => exec i s.dropTxn
    | .error _ => illegalCommand s.dropTxn
  | none => hostStep s

/-- `s` with the host about to write the command word `w` (its low `nbits` bits) to CMD, before whatever else is pending: the block
fetches nothing, a command reaches it as a WRCSR (R33; log entry 2). -/
def State.withFetchWord (s : State) (nbits w : Nat) : State :=
  { s with host := .wrcsr 1 (BitVec.ofNat 32 (w % 2 ^ nbits)) :: s.host }

end Sys2Proof.Machine
end

