-- ==== Sys2Proof/Machine/Reporting.lean ====
section
/-! DEFINITION. The host-side reporting functions of 48_reporting.md R200 to R206. They are outside the block (00_scope.md R4) and no
command calls them: pure functions over values read from its stores. What the source leaves open is an argument
(92_eei_decisions.md D28): `round2`, `originalSize`, the reading of "encoded size", rounded or unrounded ratio. -/

namespace Sys2Proof.Machine

/-- `orderBy` has exactly two values (R200). -/
inductive OrderBy where
  | frequency | char
deriving DecidableEq, Repr

/-- The sum of a table's counts. -/
def totalCount (table : SymMap Count) : Nat := (table.map fun kv => kv.2.toNat).sum

/-- Count over total times 100 rounded to two decimals; 0 when the total is 0 (R200, R202). -/
def percentage (round2 : ℚ → ℚ) (count total : Nat) : ℚ :=
  if total = 0 then 0 else round2 ((count : ℚ) / (total : ℚ) * 100)

/-- Descending count, equal counts by ascending symbol (R200). -/
def byFrequency (a b : Symbol × Count) : Bool :=
  decide (b.2.toNat < a.2.toNat) || (decide (a.2.toNat = b.2.toNat) && decide (a.1.toNat ≤ b.1.toNat))

/-- Ascending symbol (R200). -/
def byChar (a b : Symbol × Count) : Bool := decide (a.1.toNat ≤ b.1.toNat)

/-- A table's entries in the order asked for. -/
def orderedEntries (orderBy : OrderBy) (table : SymMap Count) : List (Symbol × Count) :=
  match orderBy with
  | .frequency => table.insertionSort fun a b => byFrequency a b = true
  | .char => table.insertionSort fun a b => byChar a b = true

/-- `sortedFrequencies` (R200): empty when the total is 0. -/
def sortedFrequencies (round2 : ℚ → ℚ) (table : SymMap Count) (orderBy : OrderBy) : List (Symbol × Nat × ℚ) :=
  if totalCount table = 0 then []
  else (orderedEntries orderBy table).map fun kv => (kv.1, kv.2.toNat, percentage round2 kv.2.toNat (totalCount table))

/-- `displayLabel` (R201): a token for five symbols, the symbol itself for every other. -/
def displayLabel (c : Symbol) : String :=
  if c.toNat = 0x20 then "SPACE"
  else if c.toNat = 0x0A then "NEWLINE"
  else if c.toNat = 0x09 then "TAB"
  else if c.toNat = 0x0D then "RETURN"
  else if c.toNat = 0x00 then "NULL"
  else String.singleton c

/-- A record of `formatAnalysis` (R202). -/
structure AnalysisRecord where
  symbol : Symbol
  label : String
  count : Nat
  percentage : ℚ
  code : String

/-- A code written as the characters `0` and `1` (R202). -/
def codeText (code : BitStr) : String := String.ofList (code.map fun b => if b then '1' else '0')

/-- `formatAnalysis` (R202). The order among equal counts, which R202 leaves open, is ascending symbol: DESIGN CHOICE, log entry 4. -/
def formatAnalysis (round2 : ℚ → ℚ) (table : SymMap Count) (codes : SymMap BitStr) : List AnalysisRecord :=
  (orderedEntries .frequency table).map fun kv =>
    { symbol := kv.1
      label := displayLabel kv.1
      count := kv.2.toNat
      percentage := percentage round2 kv.2.toNat (totalCount table)
      code := codeText ((SymMap.get? kv.1 codes).getD []) }

/-- What a host model must be told to compute the statistics (R203, open points a to d). -/
structure ReportParams where
  /-- (a) The size of a text in bytes. -/
  originalSize : List Symbol → Nat
  /-- (b) Whether "encoded size" is the payload alone; else it is the whole container. -/
  payloadOnly : Bool
  /-- (c) Whether space saved is computed from the rounded ratio. -/
  fromRounded : Bool
  /-- (d) The rounding to two decimals (R205). -/
  round2 : ℚ → ℚ

/-- The statistics record (R203). -/
structure Statistics where
  originalSize : Nat
  originalBits : Nat
  encodedSize : Nat
  encodedBits : Nat
  ratio : ℚ
  spaceSaved : ℚ
  uniqueSymbols : Nat
  totalSymbols : Nat

/-- "encoded size" under the reading chosen: the container's bytes, or those after the header and the tree segment (R80, R95). -/
def encodedSize (p : ReportParams) (encoded : List Byte) : Nat :=
  if p.payloadOnly then encoded.length - 14 - (be32At encoded 10).toNat else encoded.length

/-- The ratio before rounding: 0 when there are no original bits (R203). -/
def rawRatio (p : ReportParams) (text : List Symbol) (encoded : List Byte) : ℚ :=
  if 8 * p.originalSize text = 0 then 0
  else ((8 * encodedSize p encoded : Nat) : ℚ) / ((8 * p.originalSize text : Nat) : ℚ) * 100

/-- The encoder's `getStatistics(text, encodedBytes)` (R203). -/
def encoderStatistics (p : ReportParams) (text : List Symbol) (encoded : List Byte) : Statistics where
  originalSize := p.originalSize text
  originalBits := 8 * p.originalSize text
  encodedSize := encodedSize p encoded
  encodedBits := 8 * encodedSize p encoded
  ratio := p.round2 (rawRatio p text encoded)
  spaceSaved :=
    p.round2 ((1 - (if p.fromRounded then p.round2 (rawRatio p text encoded) else rawRatio p text encoded) / 100) * 100)
  uniqueSymbols := (countSymbols text).length
  totalSymbols := text.length

/-- The decoder's `getStatistics(encodedBytes, decodedText)` (R204): the same record, the decoded text in place of the original. -/
def decoderStatistics (p : ReportParams) (encoded : List Byte) (decoded : List Symbol) : Statistics :=
  encoderStatistics p decoded encoded

end Sys2Proof.Machine
end

