-- ==== Sys2Proof/Safety.lean ====
section
/-! DEFINITION. The vocabulary of the statements: the invariant of 10_state.md R41, prefix-freeness (R26), the properties of a built tree
(41_tree_builder.md R125), the grammar of the tree text (30_encoding.md R85), what a command may raise (60_exceptions.md R221), and
the kinds of store (10_state.md R21). -/

namespace Sys2Proof.Machine

/-! ### The invariant (R41) -/

/-- "no code is a prefix of another code" (R26, R142). -/
def PrefixFree (ct : SymMap BitStr) : Prop :=
  ∀ a ∈ ct, ∀ b ∈ ct, a.1 ≠ b.1 → ¬ a.2 <+: b.2

/-- Every store is within its capacity (R41.4; R22, R23, R26, R27, R28, R6). -/
structure State.WithinCapacity (s : State) : Prop where
  txi : s.txi.length ≤ s.cfg.txtMax
  txo : s.txo.length ≤ s.cfg.txtMax
  byi : s.byi.length ≤ s.cfg.bytMax
  byo : s.byo.length ≤ s.cfg.bytMax
  ser : s.ser.length ≤ s.cfg.bytMax
  pay : s.pay.length ≤ s.cfg.bytMax
  bit : s.bit.length ≤ s.cfg.bitMax
  ft : s.ft.length ≤ s.cfg.symsMax
  ct : s.ct.length ≤ s.cfg.symsMax
  tree : s.tree.nodes ≤ s.cfg.nodeMax

/-- The invariants of R41 (its fifth, counts below 2^32, is the type `Count`), with the prefix-freeness of CT (R26), the range of ERRCODE
(R221), the canonical form of the map stores and the bounds of R6 on the capacities. -/
structure State.Inv (s : State) : Prop where
  caps : s.cfg.wf = true
  maps : Memory.wf s = true
  pad : s.hdrPad.toNat ≤ 7
  ver : s.hdrVer = 0#32 ∨ s.hdrVer = 1#32
  errIff : s.err = true ↔ s.errcode ≠ 0#32
  errRange : s.errcode.toNat ≤ 13
  codes : ∀ kv ∈ s.ct, kv.2 ≠ []
  prefixFree : PrefixFree s.ct
  within : s.WithinCapacity

/-! ### What a command may raise, and running several -/

/-- The commands that can raise each code (R221). -/
def mayRaise : Instr → List ErrCode
  | .clear => []
  | .analyze => [.capacity]
  | .build => [.capacity, .freqOverflow]
  | .tser => [.capacity]
  | .tdes => [.treeSyntax, .capacity]
  | .gencodes => [.capacity]
  | .buildtxt => [.capacity]
  | .mapbits => [.noCode, .capacity]
  | .pack => [.capacity]
  | .assemble => [.capacity]
  | .encode => [.capacity]
  | .parse => [.short, .magic, .version, .padding, .treeLen]
  | .unpack => [.capacity, .payloadShort, .traversal, .leafNoSym]
  | .decode =>
    [.short, .magic, .version, .padding, .treeLen, .treeSyntax, .capacity, .payloadShort, .traversal, .leafNoSym]

/-- The CLEAR_WORK state (R252), written out. -/
def clearedWork (s : State) : State :=
  { s with
    ft := [], tree := .absent, ct := [], bit := [], ser := [], pay := [], byo := [], txo := [],
    hdrVer := 0#32, hdrPad := 0#32, hdrOlen := 0#32, hdrTlen := 0#32 }

/-- What a command that raises leaves, but for the error registers (R231): a stage command's own write set emptied, the CLEAR_WORK state
for a macro command. CLEAR cannot fail. -/
def emptied : Instr → State → State
  | .clear, s => s
  | .analyze, s => { s with ft := [] }
  | .build, s => { s with tree := .absent }
  | .tser, s => { s with ser := [] }
  | .tdes, s => { s with tree := .absent }
  | .gencodes, s => { s with ct := [] }
  | .buildtxt, s => clearedWork s
  | .mapbits, s => { s with bit := [] }
  | .pack, s => { s with pay := [], hdrPad := 0#32 }
  | .assemble, s => { s with byo := [], hdrVer := 0#32, hdrOlen := 0#32, hdrTlen := 0#32 }
  | .encode, s => clearedWork s
  | .parse, s => { s with ser := [], pay := [], hdrVer := 0#32, hdrPad := 0#32, hdrOlen := 0#32, hdrTlen := 0#32 }
  | .unpack, s => { s with bit := [], txo := [] }
  | .decode, s => clearedWork s

/-- Commands one after another, each on the state the one before it left (R193). -/
def execAll : List Instr → State → Answer
  | [], s => .next s
  | i :: is, s =>
    match exec i s with
    | .next t => execAll is t
    | .fault f => .fault f
    | .refused r => .refused r

/-! ### Kinds of store (R21) -/

/-- The kinds of value a store or register holds: a sequence of symbols, of bytes or of bits, a frequency table, a code table, a tree,
a register's word. -/
inductive Kind where
  | symbols | bytes | bits | counts | codes | tree | word
deriving DecidableEq, Repr

/-- The type column of R21. -/
def Store.kind : Store → Kind
  | .txi | .txo => .symbols
  | .byi | .byo | .ser | .pay => .bytes
  | .bit => .bits
  | .ft => .counts
  | .ct => .codes
  | .tree => .tree

/-- What a host's value is a value of. -/
def HostValue.kind : HostValue → Kind
  | .symbols _ => .symbols
  | .bytes _ => .bytes
  | .bits _ => .bits
  | .counts _ => .counts
  | .codes _ => .codes
  | .word _ => .word

/-! ### Trees -/

/-- The leaves that carry a symbol, left before right, each with its frequency. -/
def HuffTree.leaves : HuffTree → List (Symbol × Count)
  | .absent => []
  | .node f s l r =>
    if HuffTree.isLeaf (.node f s l r) then
      match s with
      | some c => [(c, f)]
      | none => []
    else l.leaves ++ r.leaves

/-- The leaves that carry a symbol, left before right, each with the path from `p` down to it (R93). -/
def HuffTree.paths : HuffTree → BitStr → List (Symbol × BitStr)
  | .absent, _ => []
  | .node f s l r, p =>
    if HuffTree.isLeaf (.node f s l r) then
      match s with
      | some c => [(c, p)]
      | none => []
    else l.paths (p ++ [false]) ++ r.paths (p ++ [true])

/-- R125 for `n >= 2`: every internal node has two children, no symbol and the sum of their frequencies; every leaf a symbol. -/
def HuffTree.Full : HuffTree → Prop
  | .absent => False
  | .node f s l r =>
    (l = .absent ∧ r = .absent ∧ s.isSome = true) ∨
      (s = none ∧ f.toNat = l.freq.toNat + r.freq.toNat ∧ l.Full ∧ r.Full)

/-- The node reached from `t` along a path, `0` left and `1` right; absent once the path leaves the tree. -/
def HuffTree.descend : HuffTree → BitStr → HuffTree
  | t, [] => t
  | .absent, _ :: _ => .absent
  | .node _ _ l r, b :: p => (if b then r else l).descend p

/-- The sum over the leaves of frequency times depth, the root at depth `d` (R127). -/
def HuffTree.weighted : HuffTree → Nat → Nat
  | .absent, _ => 0
  | .node f s l r, d =>
    if HuffTree.isLeaf (.node f s l r) then f.toNat * d else l.weighted (d + 1) + r.weighted (d + 1)

/-- The tree with every frequency forgotten: its shape and symbols (R141). -/
def HuffTree.shape : HuffTree → HuffTree
  | .absent => .absent
  | .node _ s l r => .node 0#32 s l.shape r.shape

/-- A tie-break R121 admits: a strict total order on the queue's elements (which differ in `seq`) that refines "lower frequency first". -/
structure Admissible (before : QNode → QNode → Bool) : Prop where
  refines : ∀ x y : QNode, x.tree.freq.toNat < y.tree.freq.toNat → before x y = true
  asymm : ∀ x y : QNode, before x y = true → before y x = false
  trans : ∀ x y z : QNode, before x y = true → before y z = true → before x z = true
  total : ∀ x y : QNode, x.seq ≠ y.seq → before x y = true ∨ before y x = true

/-! ### The grammar of the tree text (R85 to R88, R92) -/

/-- The value of a string of decimal digits, most significant first. -/
def decimalValue (b : List Byte) : Nat := b.foldl (fun n d => n * 10 + (d.toNat - 48)) 0

/-- `b` is the `uint` of value `f` (R85, R86): digits only, at least one, no leading zero. -/
def UintText (f : Count) (b : List Byte) : Prop :=
  b ≠ [] ∧ (∀ d ∈ b, 48 ≤ d.toNat ∧ d.toNat ≤ 57) ∧ (b.head? = some 0x30#8 → b.length = 1) ∧ decimalValue b = f.toNat

/-- One of the two words of `bool` (R88). -/
def FlagText (b : List Byte) : Prop := b = txtTrue ∨ b = txtFalse

/-- `NodeText t b`: `b` is a `node` of R85 and `t` the tree R90 reads from it. A child is a node, never the empty record. -/
inductive NodeText : HuffTree → List Byte → Prop
  | leaf {f s u w} : UintText f u → FlagText w →
      NodeText (.node f s .absent .absent) (txtFrequency ++ u ++ txtSymbol ++ symtext s ++ txtIsLeaf ++ w ++ txtClose)
  | onlyLeft {f s u w l bl} : UintText f u → FlagText w → NodeText l bl →
      NodeText (.node f s l .absent)
        (txtFrequency ++ u ++ txtSymbol ++ symtext s ++ txtIsLeaf ++ w ++ (txtLeft ++ bl) ++ txtClose)
  | onlyRight {f s u w r br} : UintText f u → FlagText w → NodeText r br →
      NodeText (.node f s .absent r)
        (txtFrequency ++ u ++ txtSymbol ++ symtext s ++ txtIsLeaf ++ w ++ (txtRight ++ br) ++ txtClose)
  | both {f s u w l bl r br} : UintText f u → FlagText w → NodeText l bl → NodeText r br →
      NodeText (.node f s l r)
        (txtFrequency ++ u ++ txtSymbol ++ symtext s ++ txtIsLeaf ++ w ++ (txtLeft ++ bl) ++ (txtRight ++ br) ++ txtClose)

/-- `tree-text` (R85, R92): the empty record for no tree, else a node, whole. -/
def TreeText (t : HuffTree) (b : List Byte) : Prop :=
  (t = .absent ∧ b = emptyRecord) ∨ NodeText t b

/-! ### Room enough for a text -/

/-- Capacities that suffice for ENCODE of the text in TXI, in terms of the text alone: `n` symbols, `k` of them distinct. A tree of `k`
leaves is at most `k` deep and has at most `2k` nodes, each of at most 66 bytes of text (R89). -/
structure RoomFor (s : State) : Prop where
  lengthFits : s.txi.length < 4294967296
  syms : s.txi.dedup.length ≤ s.cfg.symsMax
  nodes : 2 * s.txi.dedup.length ≤ s.cfg.nodeMax
  depth : s.txi.dedup.length ≤ s.cfg.depthMax
  bits : s.txi.length * s.txi.dedup.length ≤ s.cfg.bitMax
  bytes : 16 + 132 * s.txi.dedup.length + s.txi.length * s.txi.dedup.length ≤ s.cfg.bytMax

end Sys2Proof.Machine
end

