-- ==== Sys2Proof/Certificates/Slice0/Obligations.lean ====
section
/-! DEFINITION. The statements for the provers, family by family. A statement about `exec` writes the next state out as an update of
the state before, so that it says what the command leaves unchanged as well. -/

open Sys2Proof Sys2Proof.Machine

/-! ### Command words and the step -/

/-- 30_encoding.md R71: the fourteen command words, each matched in full. -/
def Obligations.CommandWordsDecode : Prop :=
  decode 0x00000001#32 = .ok .clear ∧ decode 0x00000010#32 = .ok .analyze ∧ decode 0x00000020#32 = .ok .build ∧
  decode 0x00000021#32 = .ok .tser ∧ decode 0x00000022#32 = .ok .tdes ∧ decode 0x00000030#32 = .ok .gencodes ∧
  decode 0x00000040#32 = .ok .buildtxt ∧ decode 0x00000041#32 = .ok .mapbits ∧ decode 0x00000042#32 = .ok .pack ∧
  decode 0x00000043#32 = .ok .assemble ∧ decode 0x0000004F#32 = .ok .encode ∧ decode 0x00000050#32 = .ok .parse ∧
  decode 0x00000051#32 = .ok .unpack ∧ decode 0x0000005F#32 = .ok .decode

/-- 30_encoding.md R71, R72: a word decodes to a command exactly when it is that command's word, for all 2^32 words. -/
def Obligations.DecodeExactlyEncode : Prop :=
  ∀ (w : Word) (i : Instr), decode w = .ok i ↔ w = encode i

/-- 45_control.md R191: a word that is no command's changes the error registers and nothing else of the block (the host's pending list,
the model's own, moves on: log entry 2). -/
def Obligations.IllegalWordRaises : Prop :=
  ∀ (s : State) (w : Word) (rest : List HostTxn), s.host = .wrcsr 1 w :: rest → (∀ i : Instr, w ≠ encode i) →
    step s = .next { s with host := rest, err := true, errcode := 13#32 }

/-- 10_state.md R33: a write of a command's word to CMD executes that command; around `exec` the step only takes the transaction off the
host's pending list (the model's own, log entry 2). -/
def Obligations.StepRunsPendingCommand : Prop :=
  ∀ (s : State) (i : Instr) (rest : List HostTxn), s.host = .wrcsr 1 (encode i) :: rest →
    step s = exec i { s with host := rest }

/-- 10_state.md R29, "nothing advances on its own": with no transaction pending (the model's own list, log entry 2) nothing changes. -/
def Obligations.IdleStepKeepsState : Prop :=
  ∀ s : State, s.host = [] → step s = .next s

/-! ### Host transactions -/

/-- 20_memory.md R57, R61: LOAD of a sequence within its capacity replaces that store and nothing else of the block
(the host's pending list is the model's own, log entry 2). -/
def Obligations.HostLoadReplacesOneStore : Prop :=
  ∀ (s : State) (rest : List HostTxn),
    (∀ v : List Symbol, s.host = .load .txi (.symbols v) :: rest → v.length ≤ s.cfg.txtMax →
      step s = .next { s with host := rest, txi := v }) ∧
    (∀ v : List Byte, s.host = .load .byi (.bytes v) :: rest → v.length ≤ s.cfg.bytMax →
      step s = .next { s with host := rest, byi := v }) ∧
    (∀ v : List Byte, s.host = .load .ser (.bytes v) :: rest → v.length ≤ s.cfg.bytMax →
      step s = .next { s with host := rest, ser := v }) ∧
    (∀ v : List Byte, s.host = .load .pay (.bytes v) :: rest → v.length ≤ s.cfg.bytMax →
      step s = .next { s with host := rest, pay := v }) ∧
    (∀ v : BitStr, s.host = .load .bit (.bits v) :: rest → v.length ≤ s.cfg.bitMax →
      step s = .next { s with host := rest, bit := v })

/-- 20_memory.md R61, 10_state.md R21: LOAD of FT with unique keys makes FT that map whatever the order of the keys, in canonical form (log
entry 5), and changes nothing else of the block (the host's pending list is the model's own, log entry 2). -/
def Obligations.HostLoadFrequencyTable : Prop :=
  ∀ (s : State) (rest : List HostTxn) (v : List (Symbol × Count)),
    s.host = .load .ft (.counts v) :: rest → (v.map Prod.fst).Nodup → v.length ≤ s.cfg.symsMax →
    ∃ m : SymMap Count, step s = .next { s with host := rest, ft := m } ∧ SymMap.wf m = true ∧ m.Perm v

/-- 10_state.md R39 and 92_eei_decisions.md D30, each refused by name: a LOAD of a store the host cannot load, of a value of another kind than
the store's, of a value above the store's capacity, for each of the six stores the host may load, and of a table with a repeated
key; and a READ of TREE. The refusals' names are the model's (log entry 6), and so is the pending list (log entry 2). -/
def Obligations.ForbiddenHostAccessRefused : Prop :=
  ∀ (s : State) (rest : List HostTxn),
    (∀ (st : Store) (v : HostValue), s.host = .load st v :: rest → st ∈ [Store.txo, .byo, .tree, .ct] →
      step s = .refused (.loadNotPermitted st)) ∧
    (∀ (st : Store) (v : HostValue), s.host = .load st v :: rest → st ∈ [Store.txi, .byi, .ser, .pay, .bit, .ft] →
      v.kind ≠ st.kind → step s = .refused (.loadIllTyped st)) ∧
    (∀ v : List Symbol, s.host = .load .txi (.symbols v) :: rest → s.cfg.txtMax < v.length →
      step s = .refused (.loadOverCapacity .txi)) ∧
    (∀ (st : Store) (v : List Byte), s.host = .load st (.bytes v) :: rest → st ∈ [Store.byi, .ser, .pay] →
      s.cfg.bytMax < v.length → step s = .refused (.loadOverCapacity st)) ∧
    (∀ v : BitStr, s.host = .load .bit (.bits v) :: rest → s.cfg.bitMax < v.length →
      step s = .refused (.loadOverCapacity .bit)) ∧
    (∀ v : List (Symbol × Count), s.host = .load .ft (.counts v) :: rest → (v.map Prod.fst).Nodup →
      s.cfg.symsMax < v.length → step s = .refused (.loadOverCapacity .ft)) ∧
    (∀ v : List (Symbol × Count), s.host = .load .ft (.counts v) :: rest → ¬ (v.map Prod.fst).Nodup →
      step s = .refused (.loadIllTyped .ft)) ∧
    (s.host = .read .tree :: rest → step s = .refused .readNotPermitted)

/-- 20_memory.md R57, R61: READ returns the value of the store and has no effect on the block (`reply` is the host's, log entry 2). -/
def Obligations.HostReadReturnsStore : Prop :=
  ∀ (s : State) (rest : List HostTxn) (st : Store), s.host = .read st :: rest → st ≠ .tree →
    step s = .next { s with
      host := rest
      reply := some (match st with
        | .txi => .symbols s.txi | .txo => .symbols s.txo | .byi => .bytes s.byi | .byo => .bytes s.byo
        | .ser => .bytes s.ser | .pay => .bytes s.pay | .bit => .bits s.bit | .ft => .counts s.ft
        | .ct => .codes s.ct | .tree => .word 0#32) }

/-- 10_state.md R31, R32, R34, R37: the register file as RDCSR reads it, number by number; a number above 16 reads 0
(`host` and `reply` are the model's own, log entry 2). -/
def Obligations.CsrReadValues : Prop :=
  ∀ (s : State) (rest : List HostTxn) (n : Nat), s.host = .rdcsr n :: rest →
    step s = .next { s with
      host := rest
      reply := some (.word
        (if n = 0 then 0x48554601#32
        else if n = 1 then 0#32
        else if n = 2 then
          (if s.err then 1#32 else 0#32) ||| (if s.tree = .absent then 0#32 else 2#32)
        else if n = 3 then s.errcode
        else if n = 4 then s.hdrVer
        else if n = 5 then s.hdrPad
        else if n = 6 then s.hdrOlen
        else if n = 7 then s.hdrTlen
        else if n = 8 then BitVec.ofNat 32 s.txi.length
        else if n = 9 then BitVec.ofNat 32 s.txo.length
        else if n = 10 then BitVec.ofNat 32 s.byi.length
        else if n = 11 then BitVec.ofNat 32 s.byo.length
        else if n = 12 then BitVec.ofNat 32 s.ser.length
        else if n = 13 then BitVec.ofNat 32 s.pay.length
        else if n = 14 then BitVec.ofNat 32 s.bit.length
        else if n = 15 then BitVec.ofNat 32 s.ft.length
        else if n = 16 then BitVec.ofNat 32 s.ct.length
        else 0#32)) }

/-- 10_state.md R31, 20_memory.md R57: a write to any register but CMD has no effect (the pending list is the model's own, log
entry 2). -/
def Obligations.CsrWriteIgnored : Prop :=
  ∀ (s : State) (rest : List HostTxn) (n : Nat) (w : Word), s.host = .wrcsr n w :: rest → n ≠ 1 →
    step s = .next { s with host := rest }

/-- 10_state.md R40, 70_reset_and_hazards.md R250: reset leaves every store empty and every register 0, whatever the state before; the
host's pending transactions, its last answer and the instance's capacities, the model's own fields, stay (log entries 1, 2). -/
def Obligations.ResetEmptiesEverything : Prop :=
  ∀ (s : State) (rest : List HostTxn), s.host = .reset :: rest →
    step s = .next
      { cfg := s.cfg, txi := [], txo := [], byi := [], byo := [], ser := [], pay := [], bit := [], ft := [], ct := [],
        tree := .absent, err := false, errcode := 0#32, hdrVer := 0#32, hdrPad := 0#32, hdrOlen := 0#32, hdrTlen := 0#32,
        host := rest, reply := s.reply }

/-- 45_control.md R190: CLEAR reaches the reset state of 10_state.md R40; the host's pending transactions, its last answer and the instance's
capacities, the model's own fields, stay (log entries 1, 2). -/
def Obligations.ClearReachesReset : Prop :=
  ∀ s : State, exec .clear s = .next
    { cfg := s.cfg, txi := [], txo := [], byi := [], byo := [], ser := [], pay := [], bit := [], ft := [], ct := [],
      tree := .absent, err := false, errcode := 0#32, hdrVer := 0#32, hdrPad := 0#32, hdrOlen := 0#32, hdrTlen := 0#32,
      host := s.host, reply := s.reply }

/-! ### Frequency analyzer -/

/-- 40_freq_analyze.md R110: FT becomes the table of the symbols of TXI and their counts, and nothing else changes; with more than SYMS_MAX
distinct symbols it is E_CAPACITY and FT is emptied. That the table is in canonical form is the model's (log entry 5). -/
def Obligations.AnalyzeCountsSymbols : Prop :=
  ∀ s : State, s.txi.length < 4294967296 →
    (s.txi.dedup.length ≤ s.cfg.symsMax →
      ∃ ft : SymMap Count, exec .analyze s = .next { s with ft := ft, err := false, errcode := 0#32 } ∧
        SymMap.wf ft = true ∧
        ∀ c : Symbol, SymMap.get? c ft = if c ∈ s.txi then some (BitVec.ofNat 32 (s.txi.count c)) else none) ∧
    (s.cfg.symsMax < s.txi.dedup.length →
      exec .analyze s = .next { s with ft := [], err := true, errcode := 11#32 })

/-- 40_freq_analyze.md R111: after ANALYZE, BUILDTXT, and ENCODE of a non-empty text, the counts sum to the length of TXI and the keys are
the symbols of TXI. -/
def Obligations.FrequencyConservation : Prop :=
  ∀ (s t : State) (i : Instr), s.txi.length < 4294967296 →
    (i = .analyze ∨ i = .buildtxt ∨ (i = .encode ∧ s.txi ≠ [])) → exec i s = .next t → t.err = false →
    totalCount t.ft = s.txi.length ∧ ∀ c : Symbol, c ∈ t.ft.map Prod.fst ↔ c ∈ s.txi

/-! ### Tree builder -/

/-- 41_tree_builder.md R120: the empty table gives no tree, one key the degenerate tree, two keys a root with two leaves, the lower
frequency on the left and on a tie the lower symbol (the first key, keys being ascending). The one-key premise on NODE_MAX is
the model's (log entry 3). -/
def Obligations.BuildSmallTables : Prop :=
  ∀ s : State,
    (s.ft = [] → exec .build s = .next { s with tree := .absent, err := false, errcode := 0#32 }) ∧
    (∀ (c : Symbol) (n : Count), s.ft = [(c, n)] → 2 ≤ s.cfg.nodeMax →
      exec .build s = .next { s with
        tree := .node n none (.node n (some c) .absent .absent) .absent, err := false, errcode := 0#32 }) ∧
    (∀ (a b : Symbol) (m n : Count), s.ft = [(a, m), (b, n)] → 3 ≤ s.cfg.nodeMax → m.toNat + n.toNat < 4294967296 →
      exec .build s = .next { s with
        tree :=
          if n.toNat < m.toNat then .node (m + n) none (.node n (some b) .absent .absent) (.node m (some a) .absent .absent)
          else .node (m + n) none (.node m (some a) .absent .absent) (.node n (some b) .absent .absent)
        err := false, errcode := 0#32 })

/-- 41_tree_builder.md R125: the tree of a table with two or more keys is full, has one leaf per key with its count (R126: zero counts too),
`2n - 1` nodes, and the sum of all counts at the root. -/
def Obligations.BuildMakesFullTree : Prop :=
  ∀ s : State, 2 ≤ s.ft.length → 2 * s.ft.length - 1 ≤ s.cfg.nodeMax → totalCount s.ft < 4294967296 →
    ∃ t : HuffTree, exec .build s = .next { s with tree := t, err := false, errcode := 0#32 } ∧
      t.Full ∧ t.leaves.Perm s.ft ∧ t.nodes = 2 * s.ft.length - 1 ∧ t.freq.toNat = totalCount s.ft

/-- 41_tree_builder.md R120, R122: for two or more keys, too many nodes is E_CAPACITY, checked first, and counts that sum to 2^32 or more
are E_FREQ_OVERFLOW; TREE is then none. -/
def Obligations.BuildErrors : Prop :=
  ∀ s : State, 2 ≤ s.ft.length →
    (s.cfg.nodeMax < 2 * s.ft.length - 1 →
      exec .build s = .next { s with tree := .absent, err := true, errcode := 11#32 }) ∧
    (2 * s.ft.length - 1 ≤ s.cfg.nodeMax → 4294967296 ≤ totalCount s.ft →
      exec .build s = .next { s with tree := .absent, err := true, errcode := 12#32 })

/-- 41_tree_builder.md R120, R121: from elements with different sequence numbers the queue removes the one least by (frequency, seq) and
keeps the others; the leaves are numbered from 0 in the order of the table. -/
def Obligations.QueueRemovesLeast : Prop :=
  (∀ (q rest : List QNode) (m : QNode), (q.map QNode.seq).Nodup → takeLeast keyBefore q = some (m, rest) →
    q.Perm (m :: rest) ∧
      ∀ x ∈ rest, m.tree.freq.toNat < x.tree.freq.toNat ∨ (m.tree.freq = x.tree.freq ∧ m.seq < x.seq)) ∧
  (∀ ft : SymMap Count, (leafQueue ft 0).map QNode.seq = List.range ft.length ∧
    (leafQueue ft 0).map QNode.tree = ft.map fun kv => .node kv.2 (some kv.1) .absent .absent)

/-- 41_tree_builder.md R127: the weighted path length does not depend on the tie-break (its least-possible clause, from general knowledge, is
not stated); and this hardware's tie-break is one R121 admits. -/
def Obligations.TieBreakKeepsWeight : Prop :=
  Admissible keyBefore ∧
  ∀ (before₁ before₂ : QNode → QNode → Bool) (nodeMax : Nat) (ft : SymMap Count) (t₁ t₂ : HuffTree),
    Admissible before₁ → Admissible before₂ → 2 ≤ ft.length →
    buildWith before₁ nodeMax ft = .ok t₁ → buildWith before₂ nodeMax ft = .ok t₂ → t₁.weighted 0 = t₂.weighted 0

/-- 41_tree_builder.md R123: SER becomes the text of TREE; too deep a tree or too long a text is E_CAPACITY and empties SER. -/
def Obligations.TserWritesTreeText : Prop :=
  ∀ s : State,
    (s.tree.depth ≤ s.cfg.depthMax → (ser s.tree).length ≤ s.cfg.bytMax →
      exec .tser s = .next { s with ser := ser s.tree, err := false, errcode := 0#32 } ∧ TreeText s.tree (ser s.tree)) ∧
    (s.cfg.depthMax < s.tree.depth ∨ s.cfg.bytMax < (ser s.tree).length →
      exec .tser s = .next { s with ser := [], err := true, errcode := 11#32 })

/-- 41_tree_builder.md R124: TREE becomes the tree whose text SER is, unchecked; a text of no tree is E_TREE_SYNTAX, too large a tree
E_CAPACITY, and TREE is then none. -/
def Obligations.TdesReadsTreeText : Prop :=
  ∀ s : State,
    (∀ t : HuffTree, TreeText t s.ser → t.nodes ≤ s.cfg.nodeMax → t.depth ≤ s.cfg.depthMax →
      exec .tdes s = .next { s with tree := t, err := false, errcode := 0#32 }) ∧
    (∀ t : HuffTree, TreeText t s.ser → s.cfg.nodeMax < t.nodes ∨ s.cfg.depthMax < t.depth →
      exec .tdes s = .next { s with tree := .absent, err := true, errcode := 11#32 }) ∧
    ((∀ t : HuffTree, ¬ TreeText t s.ser) →
      exec .tdes s = .next { s with tree := .absent, err := true, errcode := 7#32 })

/-- 30_encoding.md R90: the parser inverts the emitter on every tree. -/
def Obligations.ParserInvertsEmitter : Prop :=
  ∀ t : HuffTree, des (ser t) = some t

/-- 30_encoding.md R85, R90: the parser accepts exactly the texts of the grammar, with the tree R90 says, and rejects the rest. -/
def Obligations.ParserMeetsGrammar : Prop :=
  ∀ (b : List Byte) (t : HuffTree), des b = some t ↔ TreeText t b

/-- 30_encoding.md R91: the UTF-8 decoder accepts the encoding of every scalar value and, strictly, nothing else. -/
def Obligations.Utf8Strict : Prop :=
  ∀ (b rest : List Byte) (c : Symbol), utf8Decode b = some (c, rest) ↔ b = utf8 c ++ rest

/-! ### Code table generator -/

/-- 42_code_table_gen.md R140: CT gets, for every symbol on a leaf, the path to the last such leaf in left-first depth-first order, or `"0"`
for an empty path, and nothing else changes; too deep a tree or too many symbols is E_CAPACITY and empties CT. That the table is in
canonical form is the model's (log entry 5). -/
def Obligations.GencodesRecordsPaths : Prop :=
  ∀ s : State,
    (s.tree.depth ≤ s.cfg.depthMax → (s.tree.leaves.map Prod.fst).dedup.length ≤ s.cfg.symsMax →
      ∃ ct : SymMap BitStr, exec .gencodes s = .next { s with ct := ct, err := false, errcode := 0#32 } ∧
        SymMap.wf ct = true ∧
        ∀ c : Symbol, SymMap.get? c ct =
          ((s.tree.paths []).reverse.lookup c).map fun p => if p = [] then [false] else p) ∧
    (s.cfg.depthMax < s.tree.depth ∨ s.cfg.symsMax < (s.tree.leaves.map Prod.fst).dedup.length →
      exec .gencodes s = .next { s with ct := [], err := true, errcode := 11#32 })

/-- 42_code_table_gen.md R141: GENCODES is a function of the shape and symbols of TREE: no other state and no frequency plays a part. -/
def Obligations.GencodesIgnoresFrequencies : Prop :=
  ∀ s₁ s₂ t₁ t₂ : State, s₁.cfg = s₂.cfg → s₁.tree.shape = s₂.tree.shape →
    exec .gencodes s₁ = .next t₁ → exec .gencodes s₂ = .next t₂ → t₁.ct = t₂.ct ∧ t₁.errcode = t₂.errcode

/-- 42_code_table_gen.md R142: the table GENCODES writes is prefix-free for every value of TREE. -/
def Obligations.GencodesPrefixFree : Prop :=
  ∀ s t : State, exec .gencodes s = .next t →
    ∀ a ∈ t.ct, ∀ b ∈ t.ct, a.1 ≠ b.1 → ¬ a.2 <+: b.2

/-- 42_code_table_gen.md R140, corner case 7: every code has length at least 1, and at most the tree's depth (a tree that is a single leaf,
of depth 0, has the code `"0"`, corner case 3). -/
def Obligations.GencodesCodeLengths : Prop :=
  ∀ s t : State, exec .gencodes s = .next t →
    ∀ kv ∈ t.ct, 1 ≤ kv.2.length ∧ kv.2.length ≤ max 1 s.tree.depth

/-! ### Encoder -/

/-- 43_encoder.md R150: BUILDTXT clears the working state and leaves the table of the text, its tree and the tree's codes. The capacities
are premises on the number of distinct symbols. -/
def Obligations.BuildtxtBuildsWorkingState : Prop :=
  ∀ s : State, s.txi.length < 4294967296 → s.txi.dedup.length ≤ s.cfg.symsMax →
    2 * s.txi.dedup.length ≤ s.cfg.nodeMax → s.txi.dedup.length ≤ s.cfg.depthMax →
    ∃ (ft : SymMap Count) (tree : HuffTree) (ct : SymMap BitStr),
      exec .buildtxt s = .next { clearedWork s with ft := ft, tree := tree, ct := ct, err := false, errcode := 0#32 } ∧
      exec .analyze s = .next { s with ft := ft, err := false, errcode := 0#32 } ∧
      exec .build { s with ft := ft } = .next { s with ft := ft, tree := tree, err := false, errcode := 0#32 } ∧
      exec .gencodes { s with tree := tree } = .next { s with tree := tree, ct := ct, err := false, errcode := 0#32 }

/-- 43_encoder.md R151: BIT becomes the codes of the text's symbols in text order; a symbol without a code is E_NO_CODE, too many bits
E_CAPACITY, and BIT is then emptied. -/
def Obligations.MapbitsConcatenatesCodes : Prop :=
  ∀ s : State,
    ((∀ c ∈ s.txi, (SymMap.get? c s.ct).isSome = true) →
      (s.txi.flatMap fun c => (SymMap.get? c s.ct).getD []).length ≤ s.cfg.bitMax →
      exec .mapbits s = .next { s with
        bit := s.txi.flatMap fun c => (SymMap.get? c s.ct).getD [], err := false, errcode := 0#32 }) ∧
    ((∀ c ∈ s.txi, (SymMap.get? c s.ct).isSome = true) →
      s.cfg.bitMax < (s.txi.flatMap fun c => (SymMap.get? c s.ct).getD []).length →
      exec .mapbits s = .next { s with bit := [], err := true, errcode := 11#32 }) ∧
    ((∃ c ∈ s.txi, SymMap.get? c s.ct = none) →
      exec .mapbits s = .next { s with bit := [], err := true, errcode := 10#32 })

/-- 43_encoder.md R152: PAY and HDR_PAD of a bit-string of `n` bits: `pad` zeros are added, each byte is eight bits with the first its bit 7;
too many bytes is E_CAPACITY and empties both. -/
def Obligations.PackPadsAndGroups : Prop :=
  ∀ (s : State) (pad : Nat), pad = (8 - s.bit.length % 8) % 8 →
    ((s.bit.length + pad) / 8 ≤ s.cfg.bytMax →
      ∃ pay : List Byte, exec .pack s = .next { s with
          pay := pay, hdrPad := BitVec.ofNat 32 pad, err := false, errcode := 0#32 } ∧
        8 * pay.length = s.bit.length + pad ∧
        ∀ (k : Nat) (bit : Nat → Nat), k < pay.length →
          (∀ i, bit i = ((s.bit ++ List.replicate pad false).getD i false).toNat) →
          (pay.getD k 0#8).toNat =
            bit (8 * k) * 128 + bit (8 * k + 1) * 64 + bit (8 * k + 2) * 32 + bit (8 * k + 3) * 16 +
              bit (8 * k + 4) * 8 + bit (8 * k + 5) * 4 + bit (8 * k + 6) * 2 + bit (8 * k + 7)) ∧
    (s.cfg.bytMax < (s.bit.length + pad) / 8 →
      exec .pack s = .next { s with pay := [], hdrPad := 0#32, err := true, errcode := 11#32 })

/-- 20_memory.md R53: packing and unpacking are inverse on whole bytes. -/
def Obligations.PackingInvertsUnpacking : Prop :=
  (∀ b : List Byte, packBytes (unpackBits b) = b) ∧
  (∀ bits : BitStr, bits.length % 8 = 0 → unpackBits (packBytes bits) = bits)

/-- 20_memory.md R52: `be32_bytes` and `be32`, and that the second inverts the first. -/
def Obligations.BigEndianWords : Prop :=
  (∀ v : Word, (be32Bytes v).map BitVec.toNat =
    [v.toNat / 16777216, v.toNat / 65536 % 256, v.toNat / 256 % 256, v.toNat % 256]) ∧
  (∀ b0 b1 b2 b3 : Byte,
    (be32 b0 b1 b2 b3).toNat = b0.toNat * 16777216 + b1.toNat * 65536 + b2.toNat * 256 + b3.toNat) ∧
  (∀ v : Word, be32At (be32Bytes v) 0 = v)

/-- 43_encoder.md R153, 30_encoding.md R81: BYO becomes the container of HDR_PAD[7:0], the length of TXI, SER and PAY, and HDR_VER, HDR_OLEN,
HDR_TLEN show its header; its length is `14 + |SER| + |PAY|`; too long a container is E_CAPACITY and empties the write set. -/
def Obligations.AssembleJoinsContainer : Prop :=
  ∀ s : State,
    (14 + s.ser.length + s.pay.length ≤ s.cfg.bytMax →
      ∃ byo : List Byte, exec .assemble s = .next { s with
          byo := byo, hdrVer := 1#32, hdrOlen := BitVec.ofNat 32 s.txi.length, hdrTlen := BitVec.ofNat 32 s.ser.length,
          err := false, errcode := 0#32 } ∧
        byo = [0x48#8, 0x55#8, 0x46#8, 0x46#8] ++ [1#8] ++ [s.hdrPad.extractLsb' 0 8] ++
          be32Bytes (BitVec.ofNat 32 s.txi.length) ++ be32Bytes (BitVec.ofNat 32 s.ser.length) ++ s.ser ++ s.pay ∧
        byo.length = 14 + s.ser.length + s.pay.length) ∧
    (s.cfg.bytMax < 14 + s.ser.length + s.pay.length →
      exec .assemble s = .next { s with
        byo := [], hdrVer := 0#32, hdrOlen := 0#32, hdrTlen := 0#32, err := true, errcode := 11#32 })

/-- 43_encoder.md R154, 30_encoding.md R83: ENCODE of the empty text leaves the 16-byte empty-file container and nothing of a tree. The
premise on BYT_MAX is the model's (log entry 3). -/
def Obligations.EncodeEmptyText : Prop :=
  ∀ s : State, s.txi = [] → 16 ≤ s.cfg.bytMax →
    exec .encode s = .next { clearedWork s with
      ser := [0x7B#8, 0x7D#8]
      byo := [0x48#8, 0x55#8, 0x46#8, 0x46#8, 0x01#8, 0x00#8, 0x00#8, 0x00#8, 0x00#8, 0x00#8, 0x00#8, 0x00#8, 0x00#8, 0x02#8,
        0x7B#8, 0x7D#8]
      hdrVer := 1#32, hdrPad := 0#32, hdrOlen := 0#32, hdrTlen := 2#32, err := false, errcode := 0#32 }

/-- 43_encoder.md R154: ENCODE of a text for which there is room completes without error, and BYO is the container of the SER and PAY it
leaves, with their header. -/
def Obligations.EncodeCompletes : Prop :=
  ∀ s : State, s.txi ≠ [] → RoomFor s →
    ∃ (ft : SymMap Count) (tree : HuffTree) (ct : SymMap BitStr) (bit : BitStr) (pay : List Byte) (pad : Byte),
      exec .encode s = .next { clearedWork s with
        ft := ft, tree := tree, ct := ct, bit := bit, pay := pay, ser := ser tree
        byo := container 1#8 pad (BitVec.ofNat 32 s.txi.length) (ser tree) pay
        hdrVer := 1#32, hdrPad := pad.setWidth 32, hdrOlen := BitVec.ofNat 32 s.txi.length
        hdrTlen := BitVec.ofNat 32 (ser tree).length, err := false, errcode := 0#32 } ∧
      bit = (s.txi.flatMap fun c => (SymMap.get? c ct).getD []) ∧
      unpackBits pay = bit ++ List.replicate pad.toNat false ∧ pad.toNat ≤ 7

/-- 43_encoder.md R156: ENCODE leaves what BUILDTXT, MAPBITS, PACK, TSER, ASSEMBLE leave, for every text, the empty one too. -/
def Obligations.EncodeEqualsStages : Prop :=
  ∀ s t : State, exec .encode s = .next t → t.err = false →
    execAll [.buildtxt, .mapbits, .pack, .tser, .assemble] s = .next t

/-- 43_encoder.md R155, 70_reset_and_hazards.md R252: what a macro command leaves depends on TXI and BYI (and the model's own fields)
alone, never on what earlier commands left. -/
def Obligations.MacrosForgetWorkingState : Prop :=
  ∀ (s₁ s₂ : State) (i : Instr), i = .buildtxt ∨ i = .encode ∨ i = .decode →
    s₁.txi = s₂.txi → s₁.byi = s₂.byi → s₁.cfg = s₂.cfg → s₁.host = s₂.host → s₁.reply = s₂.reply →
    exec i s₁ = exec i s₂

/-! ### Decoder -/

/-- 44_decoder.md R170, R171: the five checks of PARSE in order, the tree length compared without wrap-around, then the header registers and
the two slices; a failed check empties the write set. -/
def Obligations.ParseChecksInOrder : Prop :=
  ∀ (s : State) (at_ : Nat → Nat) (tlen : Nat), (∀ i, at_ i = (s.byi.getD i 0#8).toNat) →
    tlen = at_ 10 * 16777216 + at_ 11 * 65536 + at_ 12 * 256 + at_ 13 →
    exec .parse s = .next
      (if s.byi.length < 14 then
        { s with ser := [], pay := [], hdrVer := 0#32, hdrPad := 0#32, hdrOlen := 0#32, hdrTlen := 0#32, err := true, errcode := 1#32 }
      else if at_ 0 ≠ 0x48 ∨ at_ 1 ≠ 0x55 ∨ at_ 2 ≠ 0x46 ∨ at_ 3 ≠ 0x46 then
        { s with ser := [], pay := [], hdrVer := 0#32, hdrPad := 0#32, hdrOlen := 0#32, hdrTlen := 0#32, err := true, errcode := 2#32 }
      else if at_ 4 ≠ 1 then
        { s with ser := [], pay := [], hdrVer := 0#32, hdrPad := 0#32, hdrOlen := 0#32, hdrTlen := 0#32, err := true, errcode := 3#32 }
      else if 7 < at_ 5 then
        { s with ser := [], pay := [], hdrVer := 0#32, hdrPad := 0#32, hdrOlen := 0#32, hdrTlen := 0#32, err := true, errcode := 6#32 }
      else if s.byi.length - 14 < tlen then
        { s with ser := [], pay := [], hdrVer := 0#32, hdrPad := 0#32, hdrOlen := 0#32, hdrTlen := 0#32, err := true, errcode := 4#32 }
      else
        { s with
          ser := (s.byi.drop 14).take tlen, pay := s.byi.drop (14 + tlen)
          hdrVer := 1#32, hdrPad := BitVec.ofNat 32 (at_ 5)
          hdrOlen := BitVec.ofNat 32 (at_ 6 * 16777216 + at_ 7 * 65536 + at_ 8 * 256 + at_ 9)
          hdrTlen := BitVec.ofNat 32 tlen, err := false, errcode := 0#32 })

/-- 30_encoding.md R81, R95, 44_decoder.md R170: PARSE of a container recovers its parts. -/
def Obligations.ParseRecoversContainer : Prop :=
  ∀ (s : State) (pad : Byte) (olen : Word) (tree pay : List Byte),
    s.byi = container 1#8 pad olen tree pay → pad.toNat ≤ 7 → tree.length < 4294967296 →
    exec .parse s = .next { s with
      ser := tree, pay := pay, hdrVer := 1#32, hdrPad := pad.setWidth 32, hdrOlen := olen
      hdrTlen := BitVec.ofNat 32 tree.length, err := false, errcode := 0#32 }

/-- 44_decoder.md R172, R173: when the kept bits begin with the paths of leaves of TREE, as many as HDR_OLEN says, UNPACK emits the symbols of
those leaves and looks at no later bit. -/
def Obligations.UnpackWalksPaths : Prop :=
  ∀ (s : State) (pairs : List (Symbol × BitStr)) (rest : BitStr),
    s.tree.isLeaf = false → (∀ x ∈ pairs, x ∈ s.tree.paths []) → s.hdrOlen.toNat = pairs.length →
    (unpackBits s.pay).take (8 * s.pay.length - s.hdrPad.toNat) = pairs.flatMap Prod.snd ++ rest →
    8 * s.pay.length - s.hdrPad.toNat ≤ s.cfg.bitMax → pairs.length ≤ s.cfg.txtMax →
    exec .unpack s = .next { s with
      bit := pairs.flatMap Prod.snd ++ rest, txo := pairs.map Prod.fst, err := false, errcode := 0#32 }

/-- 44_decoder.md R172 (D34): no symbol asked for, or no tree, gives BIT and an empty text without error. -/
def Obligations.UnpackNothingToWalk : Prop :=
  ∀ s : State, s.hdrOlen = 0#32 ∨ s.tree = .absent → 8 * s.pay.length - s.hdrPad.toNat ≤ s.cfg.bitMax →
    exec .unpack s = .next { s with
      bit := (unpackBits s.pay).take (8 * s.pay.length - s.hdrPad.toNat), txo := [], err := false, errcode := 0#32 }

/-- UNPACK's four errors, BIT and TXO emptied. 44_decoder.md R172: more kept bits than BIT_MAX is E_CAPACITY, whatever TREE and the header
registers are. 44_decoder.md R173, 60_exceptions.md R226, R238, R239: after the paths of fewer leaves than HDR_OLEN asks for, the bits' end at
an internal node is E_PAYLOAD_SHORT, a step to an absent child E_TRAVERSAL, a leaf without a symbol E_LEAF_NOSYM. That a text the
walk completes above TXT_MAX is E_CAPACITY is the model's (log entry 3). -/
def Obligations.UnpackWalkErrors : Prop :=
  ∀ s : State,
    (s.cfg.bitMax < 8 * s.pay.length - s.hdrPad.toNat →
      exec .unpack s = .next { s with bit := [], txo := [], err := true, errcode := 11#32 }) ∧
    (8 * s.pay.length - s.hdrPad.toNat ≤ s.cfg.bitMax → ∀ (pairs : List (Symbol × BitStr)) (q rest : BitStr) (b : Bool),
      s.tree ≠ .absent → (∀ x ∈ pairs, x ∈ s.tree.paths [] ∧ x.2 ≠ []) →
      ((unpackBits s.pay).take (8 * s.pay.length - s.hdrPad.toNat) = pairs.flatMap Prod.snd ++ q →
        pairs.length < s.hdrOlen.toNat → s.tree.descend q ≠ .absent → (q ≠ [] → (s.tree.descend q).isLeaf = false) →
        exec .unpack s = .next { s with bit := [], txo := [], err := true, errcode := 8#32 }) ∧
      ((unpackBits s.pay).take (8 * s.pay.length - s.hdrPad.toNat) = pairs.flatMap Prod.snd ++ (q ++ b :: rest) →
        pairs.length < s.hdrOlen.toNat → s.tree.descend q ≠ .absent → (q ≠ [] → (s.tree.descend q).isLeaf = false) →
        s.tree.descend (q ++ [b]) = .absent →
        exec .unpack s = .next { s with bit := [], txo := [], err := true, errcode := 5#32 }) ∧
      ((unpackBits s.pay).take (8 * s.pay.length - s.hdrPad.toNat) = pairs.flatMap Prod.snd ++ (q ++ rest) →
        pairs.length < s.hdrOlen.toNat → q ≠ [] → (∃ f, s.tree.descend q = .node f none .absent .absent) →
        exec .unpack s = .next { s with bit := [], txo := [], err := true, errcode := 9#32 }) ∧
      ((unpackBits s.pay).take (8 * s.pay.length - s.hdrPad.toNat) = pairs.flatMap Prod.snd ++ rest →
        s.hdrOlen.toNat = pairs.length → s.cfg.txtMax < pairs.length →
        exec .unpack s = .next { s with bit := [], txo := [], err := true, errcode := 11#32 }))

/-- 44_decoder.md R174, 30_encoding.md R85, R88: DECODE of a container whose tree segment is a text of a tree, any the grammar allows and not the
emitter's alone, and whose payload begins with the paths of its leaves. The premise on TXT_MAX is the model's (log entry 3). -/
def Obligations.DecodeReadsContainer : Prop :=
  ∀ (s : State) (tree : HuffTree) (seg : List Byte) (pad : Byte) (pay : List Byte) (pairs : List (Symbol × BitStr))
    (rest : BitStr),
    s.byi = container 1#8 pad (BitVec.ofNat 32 pairs.length) seg pay → TreeText tree seg → pad.toNat ≤ 7 →
    seg.length < 4294967296 → 0 < pairs.length → pairs.length < 4294967296 →
    tree.isLeaf = false → (∀ x ∈ pairs, x ∈ tree.paths []) →
    (unpackBits pay).take (8 * pay.length - pad.toNat) = pairs.flatMap Prod.snd ++ rest →
    tree.nodes ≤ s.cfg.nodeMax → tree.depth ≤ s.cfg.depthMax → 8 * pay.length - pad.toNat ≤ s.cfg.bitMax →
    pairs.length ≤ s.cfg.txtMax →
    exec .decode s = .next { clearedWork s with
      ser := seg, pay := pay, tree := tree, bit := pairs.flatMap Prod.snd ++ rest, txo := pairs.map Prod.fst
      hdrVer := 1#32, hdrPad := pad.setWidth 32, hdrOlen := BitVec.ofNat 32 pairs.length
      hdrTlen := BitVec.ofNat 32 seg.length, err := false, errcode := 0#32 }

/-- 44_decoder.md R174, corner cases 1 and 2: once the header passes, originalLength 0 gives the empty text whatever the tree segment holds, and
the tree segment `{}` gives the empty text whatever originalLength is. -/
def Obligations.DecodeEarlyEnds : Prop :=
  ∀ (s : State) (pad : Byte) (olen : Word) (tree pay : List Byte),
    s.byi = container 1#8 pad olen tree pay → pad.toNat ≤ 7 → tree.length < 4294967296 →
    olen = 0#32 ∨ tree = [0x7B#8, 0x7D#8] →
    exec .decode s = .next { clearedWork s with
      ser := tree, pay := pay, hdrVer := 1#32, hdrPad := pad.setWidth 32, hdrOlen := olen
      hdrTlen := BitVec.ofNat 32 tree.length, err := false, errcode := 0#32 }

/-- 44_decoder.md R174, 60_exceptions.md R229: an error PARSE raises on BYI is the error DECODE raises, before anything else is looked at. Where
PARSE ends without error and HDR_OLEN is not 0, an error TDES raises on what PARSE left (E_TREE_SYNTAX, E_CAPACITY) is DECODE's. Where
TDES ends without error and with a tree, DECODE ends as UNPACK does on what TDES left: with its error (E_CAPACITY, E_PAYLOAD_SHORT,
E_TRAVERSAL, E_LEAF_NOSYM), or with its bits and text. -/
def Obligations.DecodeHeaderErrorsFirst : Prop :=
  ∀ s p : State, exec .parse s = .next p →
    (p.err = true → exec .decode s = .next { clearedWork s with err := true, errcode := p.errcode }) ∧
    (p.err = false → p.hdrOlen ≠ 0#32 → ∀ q : State, exec .tdes p = .next q →
      (q.err = true → exec .decode s = .next { clearedWork s with err := true, errcode := q.errcode }) ∧
      (q.err = false → q.tree ≠ .absent → ∀ u : State, exec .unpack q = .next u →
        (u.err = true → exec .decode s = .next { clearedWork s with err := true, errcode := u.errcode }) ∧
        (u.err = false → exec .decode s = .next { clearedWork s with
          ser := p.ser, pay := p.pay, hdrVer := p.hdrVer, hdrPad := p.hdrPad, hdrOlen := p.hdrOlen, hdrTlen := p.hdrTlen
          tree := q.tree, bit := u.bit, txo := u.txo, err := false, errcode := 0#32 })))

/-- 44_decoder.md R174, corner case 4: bytes appended to a container that decodes do not change the text, as long as the bits fit. -/
def Obligations.TrailingBytesIgnored : Prop :=
  ∀ (s t : State) (extra : List Byte), exec .decode s = .next t → t.err = false →
    8 * (s.byi.length + extra.length) ≤ s.cfg.bitMax →
    ∃ u : State, exec .decode { s with byi := s.byi ++ extra } = .next u ∧ u.err = false ∧ u.txo = t.txo

/-- 44_decoder.md R175: decoding what ENCODE made of a non-empty text gives the text back, without error. -/
def Obligations.EncodeDecodeRoundTrip : Prop :=
  ∀ s t : State, s.Inv → s.txi ≠ [] → exec .encode s = .next t → t.err = false →
    ∃ u : State, exec .decode { t with byi := t.byo } = .next u ∧ u.err = false ∧ u.txo = s.txi

/-- 44_decoder.md R176: ENCODE of the empty text gives the empty-file container, and DECODE of it the empty text through the originalLength
shortcut, no tree being built or parsed. -/
def Obligations.EmptyTextRoundTrip : Prop :=
  ∀ s t : State, s.txi = [] → exec .encode s = .next t → t.err = false →
    t.byo = container 1#8 0#8 0#32 [0x7B#8, 0x7D#8] [] ∧
      ∃ u : State, exec .decode { t with byi := t.byo } = .next u ∧ u.err = false ∧ u.txo = [] ∧ u.tree = .absent

/-- 44_decoder.md R177, 43_encoder.md R154 corner case 2: one symbol repeated `n` times is coded `"0"`, its payload bits are `n` zeros, and it
decodes to itself. -/
def Obligations.SingleSymbolRoundTrip : Prop :=
  ∀ (s t : State) (c : Symbol) (n : Nat), s.Inv → s.txi = List.replicate (n + 1) c →
    exec .encode s = .next t → t.err = false →
    t.ct = [(c, [false])] ∧ t.bit = List.replicate (n + 1) false ∧
      ∃ u : State, exec .decode { t with byi := t.byo } = .next u ∧ u.err = false ∧ u.txo = s.txi

/-! ### Errors, frames and the invariant -/

/-- 60_exceptions.md R221, R231: every command ends, either without error with both error registers zero, or with one of the codes R221 gives it,
in the state R231 says. The length of TXI is bounded as the invariant bounds it. -/
def Obligations.CommandEndsAsErrorEntrySays : Prop :=
  ∀ (i : Instr) (s : State), s.txi.length < 4294967296 →
    ∃ t : State, exec i s = .next t ∧
      ((t.err = false ∧ t.errcode = 0#32) ∨
        ∃ e ∈ mayRaise i, t = { emptied i s with err := true, errcode := e.code })

/-- 60_exceptions.md R232: re-issuing the failed command raises the same error again and changes nothing more. -/
def Obligations.ReissueRepeatsError : Prop :=
  ∀ (i : Instr) (s t : State), exec i s = .next t → t.err = true → exec i t = .next t

/-- R110, R120, R123, R124, R140, R151, R152, R153, R170, R172, "Changes nothing else except STATUS and ERRCODE": each stage command writes its own
stores and registers only, whether it succeeds or raises. -/
def Obligations.StageFrames : Prop :=
  ∀ s t : State,
    (exec .analyze s = .next t → t = { s with ft := t.ft, err := t.err, errcode := t.errcode }) ∧
    (exec .build s = .next t → t = { s with tree := t.tree, err := t.err, errcode := t.errcode }) ∧
    (exec .tser s = .next t → t = { s with ser := t.ser, err := t.err, errcode := t.errcode }) ∧
    (exec .tdes s = .next t → t = { s with tree := t.tree, err := t.err, errcode := t.errcode }) ∧
    (exec .gencodes s = .next t → t = { s with ct := t.ct, err := t.err, errcode := t.errcode }) ∧
    (exec .mapbits s = .next t → t = { s with bit := t.bit, err := t.err, errcode := t.errcode }) ∧
    (exec .pack s = .next t → t = { s with pay := t.pay, hdrPad := t.hdrPad, err := t.err, errcode := t.errcode }) ∧
    (exec .assemble s = .next t → t = { s with
      byo := t.byo, hdrVer := t.hdrVer, hdrOlen := t.hdrOlen, hdrTlen := t.hdrTlen, err := t.err, errcode := t.errcode }) ∧
    (exec .parse s = .next t → t = { s with
      ser := t.ser, pay := t.pay, hdrVer := t.hdrVer, hdrPad := t.hdrPad, hdrOlen := t.hdrOlen, hdrTlen := t.hdrTlen,
      err := t.err, errcode := t.errcode }) ∧
    (exec .unpack s = .next t → t = { s with bit := t.bit, txo := t.txo, err := t.err, errcode := t.errcode })

/-- 70_reset_and_hazards.md R252, R254: a macro command leaves TXI and BYI as they are and empties what it does not fill: BUILDTXT all but FT, TREE
and CT, ENCODE TXO, DECODE FT, CT and BYO; the model's own fields stay. -/
def Obligations.MacroFrames : Prop :=
  ∀ s t : State,
    (exec .buildtxt s = .next t → t = { clearedWork s with
      ft := t.ft, tree := t.tree, ct := t.ct, err := t.err, errcode := t.errcode }) ∧
    (exec .encode s = .next t → t = { clearedWork s with
      ft := t.ft, tree := t.tree, ct := t.ct, bit := t.bit, ser := t.ser, pay := t.pay, byo := t.byo,
      hdrVer := t.hdrVer, hdrPad := t.hdrPad, hdrOlen := t.hdrOlen, hdrTlen := t.hdrTlen, err := t.err, errcode := t.errcode }) ∧
    (exec .decode s = .next t → t = { clearedWork s with
      tree := t.tree, bit := t.bit, ser := t.ser, pay := t.pay, txo := t.txo,
      hdrVer := t.hdrVer, hdrPad := t.hdrPad, hdrOlen := t.hdrOlen, hdrTlen := t.hdrTlen, err := t.err, errcode := t.errcode })

/-- 44_decoder.md R179: a failed DECODE returns no text, no tree and no header. -/
def Obligations.FailedDecodeLeavesNothing : Prop :=
  ∀ s t : State, exec .decode s = .next t → t.err = true →
    t = { clearedWork s with err := true, errcode := t.errcode }

/-- 10_state.md R41 with R21, R26, 00_scope.md R6, 60_exceptions.md R221: every step keeps the invariant, from every state that has it. The
invariant's clause that the map stores are in canonical form is the model's (log entry 5). -/
def Obligations.StepKeepsInvariant : Prop :=
  ∀ s t : State, s.Inv → step s = .next t → t.Inv

/-- 10_state.md R40, R41: the state after reset has the invariant, for every instance whose capacities are within their bounds; `State.reset` is
the instance with every capacity at its upper bound (the model's choice, log entry 1). -/
def Obligations.ResetHasInvariant : Prop :=
  (∀ c : Config, c.wf = true → (State.resetOf c).Inv) ∧ State.reset.Inv

/-! ### Host-side reporting (outside the block) -/

/-- 48_reporting.md R200: the entries of the table, by descending count and ascending symbol, or by ascending symbol; empty when the counts sum
to 0. Stated for a table in canonical form (the model's, log entry 5) and any rounding of the exact quotient (the model's reading of R205,
log entry 8). -/
def Obligations.SortedFrequenciesOrdered : Prop :=
  ∀ (round2 : ℚ → ℚ) (table : SymMap Count), SymMap.wf table = true →
    (totalCount table = 0 → ∀ o, sortedFrequencies round2 table o = []) ∧
    (totalCount table ≠ 0 → ∀ o,
      ((sortedFrequencies round2 table o).map fun r => (r.1, BitVec.ofNat 32 r.2.1)).Perm table ∧
      (∀ r ∈ sortedFrequencies round2 table o, r.2.2 = round2 ((r.2.1 : ℚ) / (totalCount table : ℚ) * 100)) ∧
      (sortedFrequencies round2 table o).Pairwise fun a b =>
        match o with
        | .frequency => b.2.1 < a.2.1 ∨ (a.2.1 = b.2.1 ∧ a.1.toNat < b.1.toNat)
        | .char => a.1.toNat < b.1.toNat)

/-- 48_reporting.md R203, R206: the ratio is never negative and is 0 for a text of no bits, for any rounding of the exact
quotient (log entry 8) that keeps the sign and 0. -/
def Obligations.CompressionRatioNonnegative : Prop :=
  ∀ (p : ReportParams) (text : List Symbol) (encoded : List Byte),
    (∀ x : ℚ, 0 ≤ x → 0 ≤ p.round2 x) → p.round2 0 = 0 →
    0 ≤ (encoderStatistics p text encoded).ratio ∧
      (p.originalSize text = 0 → (encoderStatistics p text encoded).ratio = 0)
end

