-- ==== Sys2Proof/Laws/State.lean ====
section
/-! SUPPORT. One lemma per field per update of the state, so that no proof unfolds a record update. -/

namespace Sys2Proof.Machine

variable (s : State)

@[simp] theorem State.setTxi_cfg (v : List Symbol) : (s.setTxi v).cfg = s.cfg := rfl
@[simp] theorem State.setTxi_txi (v : List Symbol) : (s.setTxi v).txi = v := rfl
@[simp] theorem State.setTxi_txo (v : List Symbol) : (s.setTxi v).txo = s.txo := rfl
@[simp] theorem State.setTxi_byi (v : List Symbol) : (s.setTxi v).byi = s.byi := rfl
@[simp] theorem State.setTxi_byo (v : List Symbol) : (s.setTxi v).byo = s.byo := rfl
@[simp] theorem State.setTxi_ser (v : List Symbol) : (s.setTxi v).ser = s.ser := rfl
@[simp] theorem State.setTxi_pay (v : List Symbol) : (s.setTxi v).pay = s.pay := rfl
@[simp] theorem State.setTxi_bit (v : List Symbol) : (s.setTxi v).bit = s.bit := rfl
@[simp] theorem State.setTxi_ft (v : List Symbol) : (s.setTxi v).ft = s.ft := rfl
@[simp] theorem State.setTxi_ct (v : List Symbol) : (s.setTxi v).ct = s.ct := rfl
@[simp] theorem State.setTxi_tree (v : List Symbol) : (s.setTxi v).tree = s.tree := rfl
@[simp] theorem State.setTxi_err (v : List Symbol) : (s.setTxi v).err = s.err := rfl
@[simp] theorem State.setTxi_errcode (v : List Symbol) : (s.setTxi v).errcode = s.errcode := rfl
@[simp] theorem State.setTxi_hdrVer (v : List Symbol) : (s.setTxi v).hdrVer = s.hdrVer := rfl
@[simp] theorem State.setTxi_hdrPad (v : List Symbol) : (s.setTxi v).hdrPad = s.hdrPad := rfl
@[simp] theorem State.setTxi_hdrOlen (v : List Symbol) : (s.setTxi v).hdrOlen = s.hdrOlen := rfl
@[simp] theorem State.setTxi_hdrTlen (v : List Symbol) : (s.setTxi v).hdrTlen = s.hdrTlen := rfl
@[simp] theorem State.setTxi_host (v : List Symbol) : (s.setTxi v).host = s.host := rfl
@[simp] theorem State.setTxi_reply (v : List Symbol) : (s.setTxi v).reply = s.reply := rfl

@[simp] theorem State.setByi_cfg (v : List Byte) : (s.setByi v).cfg = s.cfg := rfl
@[simp] theorem State.setByi_txi (v : List Byte) : (s.setByi v).txi = s.txi := rfl
@[simp] theorem State.setByi_txo (v : List Byte) : (s.setByi v).txo = s.txo := rfl
@[simp] theorem State.setByi_byi (v : List Byte) : (s.setByi v).byi = v := rfl
@[simp] theorem State.setByi_byo (v : List Byte) : (s.setByi v).byo = s.byo := rfl
@[simp] theorem State.setByi_ser (v : List Byte) : (s.setByi v).ser = s.ser := rfl
@[simp] theorem State.setByi_pay (v : List Byte) : (s.setByi v).pay = s.pay := rfl
@[simp] theorem State.setByi_bit (v : List Byte) : (s.setByi v).bit = s.bit := rfl
@[simp] theorem State.setByi_ft (v : List Byte) : (s.setByi v).ft = s.ft := rfl
@[simp] theorem State.setByi_ct (v : List Byte) : (s.setByi v).ct = s.ct := rfl
@[simp] theorem State.setByi_tree (v : List Byte) : (s.setByi v).tree = s.tree := rfl
@[simp] theorem State.setByi_err (v : List Byte) : (s.setByi v).err = s.err := rfl
@[simp] theorem State.setByi_errcode (v : List Byte) : (s.setByi v).errcode = s.errcode := rfl
@[simp] theorem State.setByi_hdrVer (v : List Byte) : (s.setByi v).hdrVer = s.hdrVer := rfl
@[simp] theorem State.setByi_hdrPad (v : List Byte) : (s.setByi v).hdrPad = s.hdrPad := rfl
@[simp] theorem State.setByi_hdrOlen (v : List Byte) : (s.setByi v).hdrOlen = s.hdrOlen := rfl
@[simp] theorem State.setByi_hdrTlen (v : List Byte) : (s.setByi v).hdrTlen = s.hdrTlen := rfl
@[simp] theorem State.setByi_host (v : List Byte) : (s.setByi v).host = s.host := rfl
@[simp] theorem State.setByi_reply (v : List Byte) : (s.setByi v).reply = s.reply := rfl

@[simp] theorem State.setPay_cfg (v : List Byte) : (s.setPay v).cfg = s.cfg := rfl
@[simp] theorem State.setPay_txi (v : List Byte) : (s.setPay v).txi = s.txi := rfl
@[simp] theorem State.setPay_txo (v : List Byte) : (s.setPay v).txo = s.txo := rfl
@[simp] theorem State.setPay_byi (v : List Byte) : (s.setPay v).byi = s.byi := rfl
@[simp] theorem State.setPay_byo (v : List Byte) : (s.setPay v).byo = s.byo := rfl
@[simp] theorem State.setPay_ser (v : List Byte) : (s.setPay v).ser = s.ser := rfl
@[simp] theorem State.setPay_pay (v : List Byte) : (s.setPay v).pay = v := rfl
@[simp] theorem State.setPay_bit (v : List Byte) : (s.setPay v).bit = s.bit := rfl
@[simp] theorem State.setPay_ft (v : List Byte) : (s.setPay v).ft = s.ft := rfl
@[simp] theorem State.setPay_ct (v : List Byte) : (s.setPay v).ct = s.ct := rfl
@[simp] theorem State.setPay_tree (v : List Byte) : (s.setPay v).tree = s.tree := rfl
@[simp] theorem State.setPay_err (v : List Byte) : (s.setPay v).err = s.err := rfl
@[simp] theorem State.setPay_errcode (v : List Byte) : (s.setPay v).errcode = s.errcode := rfl
@[simp] theorem State.setPay_hdrVer (v : List Byte) : (s.setPay v).hdrVer = s.hdrVer := rfl
@[simp] theorem State.setPay_hdrPad (v : List Byte) : (s.setPay v).hdrPad = s.hdrPad := rfl
@[simp] theorem State.setPay_hdrOlen (v : List Byte) : (s.setPay v).hdrOlen = s.hdrOlen := rfl
@[simp] theorem State.setPay_hdrTlen (v : List Byte) : (s.setPay v).hdrTlen = s.hdrTlen := rfl
@[simp] theorem State.setPay_host (v : List Byte) : (s.setPay v).host = s.host := rfl
@[simp] theorem State.setPay_reply (v : List Byte) : (s.setPay v).reply = s.reply := rfl

@[simp] theorem State.setFt_cfg (v : SymMap Count) : (s.setFt v).cfg = s.cfg := rfl
@[simp] theorem State.setFt_txi (v : SymMap Count) : (s.setFt v).txi = s.txi := rfl
@[simp] theorem State.setFt_txo (v : SymMap Count) : (s.setFt v).txo = s.txo := rfl
@[simp] theorem State.setFt_byi (v : SymMap Count) : (s.setFt v).byi = s.byi := rfl
@[simp] theorem State.setFt_byo (v : SymMap Count) : (s.setFt v).byo = s.byo := rfl
@[simp] theorem State.setFt_ser (v : SymMap Count) : (s.setFt v).ser = s.ser := rfl
@[simp] theorem State.setFt_pay (v : SymMap Count) : (s.setFt v).pay = s.pay := rfl
@[simp] theorem State.setFt_bit (v : SymMap Count) : (s.setFt v).bit = s.bit := rfl
@[simp] theorem State.setFt_ft (v : SymMap Count) : (s.setFt v).ft = v := rfl
@[simp] theorem State.setFt_ct (v : SymMap Count) : (s.setFt v).ct = s.ct := rfl
@[simp] theorem State.setFt_tree (v : SymMap Count) : (s.setFt v).tree = s.tree := rfl
@[simp] theorem State.setFt_err (v : SymMap Count) : (s.setFt v).err = s.err := rfl
@[simp] theorem State.setFt_errcode (v : SymMap Count) : (s.setFt v).errcode = s.errcode := rfl
@[simp] theorem State.setFt_hdrVer (v : SymMap Count) : (s.setFt v).hdrVer = s.hdrVer := rfl
@[simp] theorem State.setFt_hdrPad (v : SymMap Count) : (s.setFt v).hdrPad = s.hdrPad := rfl
@[simp] theorem State.setFt_hdrOlen (v : SymMap Count) : (s.setFt v).hdrOlen = s.hdrOlen := rfl
@[simp] theorem State.setFt_hdrTlen (v : SymMap Count) : (s.setFt v).hdrTlen = s.hdrTlen := rfl
@[simp] theorem State.setFt_host (v : SymMap Count) : (s.setFt v).host = s.host := rfl
@[simp] theorem State.setFt_reply (v : SymMap Count) : (s.setFt v).reply = s.reply := rfl

@[simp] theorem State.setTree_cfg (v : HuffTree) : (s.setTree v).cfg = s.cfg := rfl
@[simp] theorem State.setTree_txi (v : HuffTree) : (s.setTree v).txi = s.txi := rfl
@[simp] theorem State.setTree_txo (v : HuffTree) : (s.setTree v).txo = s.txo := rfl
@[simp] theorem State.setTree_byi (v : HuffTree) : (s.setTree v).byi = s.byi := rfl
@[simp] theorem State.setTree_byo (v : HuffTree) : (s.setTree v).byo = s.byo := rfl
@[simp] theorem State.setTree_ser (v : HuffTree) : (s.setTree v).ser = s.ser := rfl
@[simp] theorem State.setTree_pay (v : HuffTree) : (s.setTree v).pay = s.pay := rfl
@[simp] theorem State.setTree_bit (v : HuffTree) : (s.setTree v).bit = s.bit := rfl
@[simp] theorem State.setTree_ft (v : HuffTree) : (s.setTree v).ft = s.ft := rfl
@[simp] theorem State.setTree_ct (v : HuffTree) : (s.setTree v).ct = s.ct := rfl
@[simp] theorem State.setTree_tree (v : HuffTree) : (s.setTree v).tree = v := rfl
@[simp] theorem State.setTree_err (v : HuffTree) : (s.setTree v).err = s.err := rfl
@[simp] theorem State.setTree_errcode (v : HuffTree) : (s.setTree v).errcode = s.errcode := rfl
@[simp] theorem State.setTree_hdrVer (v : HuffTree) : (s.setTree v).hdrVer = s.hdrVer := rfl
@[simp] theorem State.setTree_hdrPad (v : HuffTree) : (s.setTree v).hdrPad = s.hdrPad := rfl
@[simp] theorem State.setTree_hdrOlen (v : HuffTree) : (s.setTree v).hdrOlen = s.hdrOlen := rfl
@[simp] theorem State.setTree_hdrTlen (v : HuffTree) : (s.setTree v).hdrTlen = s.hdrTlen := rfl
@[simp] theorem State.setTree_host (v : HuffTree) : (s.setTree v).host = s.host := rfl
@[simp] theorem State.setTree_reply (v : HuffTree) : (s.setTree v).reply = s.reply := rfl

@[simp] theorem State.setCt_cfg (v : SymMap BitStr) : (s.setCt v).cfg = s.cfg := rfl
@[simp] theorem State.setCt_txi (v : SymMap BitStr) : (s.setCt v).txi = s.txi := rfl
@[simp] theorem State.setCt_txo (v : SymMap BitStr) : (s.setCt v).txo = s.txo := rfl
@[simp] theorem State.setCt_byi (v : SymMap BitStr) : (s.setCt v).byi = s.byi := rfl
@[simp] theorem State.setCt_byo (v : SymMap BitStr) : (s.setCt v).byo = s.byo := rfl
@[simp] theorem State.setCt_ser (v : SymMap BitStr) : (s.setCt v).ser = s.ser := rfl
@[simp] theorem State.setCt_pay (v : SymMap BitStr) : (s.setCt v).pay = s.pay := rfl
@[simp] theorem State.setCt_bit (v : SymMap BitStr) : (s.setCt v).bit = s.bit := rfl
@[simp] theorem State.setCt_ft (v : SymMap BitStr) : (s.setCt v).ft = s.ft := rfl
@[simp] theorem State.setCt_ct (v : SymMap BitStr) : (s.setCt v).ct = v := rfl
@[simp] theorem State.setCt_tree (v : SymMap BitStr) : (s.setCt v).tree = s.tree := rfl
@[simp] theorem State.setCt_err (v : SymMap BitStr) : (s.setCt v).err = s.err := rfl
@[simp] theorem State.setCt_errcode (v : SymMap BitStr) : (s.setCt v).errcode = s.errcode := rfl
@[simp] theorem State.setCt_hdrVer (v : SymMap BitStr) : (s.setCt v).hdrVer = s.hdrVer := rfl
@[simp] theorem State.setCt_hdrPad (v : SymMap BitStr) : (s.setCt v).hdrPad = s.hdrPad := rfl
@[simp] theorem State.setCt_hdrOlen (v : SymMap BitStr) : (s.setCt v).hdrOlen = s.hdrOlen := rfl
@[simp] theorem State.setCt_hdrTlen (v : SymMap BitStr) : (s.setCt v).hdrTlen = s.hdrTlen := rfl
@[simp] theorem State.setCt_host (v : SymMap BitStr) : (s.setCt v).host = s.host := rfl
@[simp] theorem State.setCt_reply (v : SymMap BitStr) : (s.setCt v).reply = s.reply := rfl

@[simp] theorem State.setBit_cfg (v : BitStr) : (s.setBit v).cfg = s.cfg := rfl
@[simp] theorem State.setBit_txi (v : BitStr) : (s.setBit v).txi = s.txi := rfl
@[simp] theorem State.setBit_txo (v : BitStr) : (s.setBit v).txo = s.txo := rfl
@[simp] theorem State.setBit_byi (v : BitStr) : (s.setBit v).byi = s.byi := rfl
@[simp] theorem State.setBit_byo (v : BitStr) : (s.setBit v).byo = s.byo := rfl
@[simp] theorem State.setBit_ser (v : BitStr) : (s.setBit v).ser = s.ser := rfl
@[simp] theorem State.setBit_pay (v : BitStr) : (s.setBit v).pay = s.pay := rfl
@[simp] theorem State.setBit_bit (v : BitStr) : (s.setBit v).bit = v := rfl
@[simp] theorem State.setBit_ft (v : BitStr) : (s.setBit v).ft = s.ft := rfl
@[simp] theorem State.setBit_ct (v : BitStr) : (s.setBit v).ct = s.ct := rfl
@[simp] theorem State.setBit_tree (v : BitStr) : (s.setBit v).tree = s.tree := rfl
@[simp] theorem State.setBit_err (v : BitStr) : (s.setBit v).err = s.err := rfl
@[simp] theorem State.setBit_errcode (v : BitStr) : (s.setBit v).errcode = s.errcode := rfl
@[simp] theorem State.setBit_hdrVer (v : BitStr) : (s.setBit v).hdrVer = s.hdrVer := rfl
@[simp] theorem State.setBit_hdrPad (v : BitStr) : (s.setBit v).hdrPad = s.hdrPad := rfl
@[simp] theorem State.setBit_hdrOlen (v : BitStr) : (s.setBit v).hdrOlen = s.hdrOlen := rfl
@[simp] theorem State.setBit_hdrTlen (v : BitStr) : (s.setBit v).hdrTlen = s.hdrTlen := rfl
@[simp] theorem State.setBit_host (v : BitStr) : (s.setBit v).host = s.host := rfl
@[simp] theorem State.setBit_reply (v : BitStr) : (s.setBit v).reply = s.reply := rfl

@[simp] theorem State.setSer_cfg (v : List Byte) : (s.setSer v).cfg = s.cfg := rfl
@[simp] theorem State.setSer_txi (v : List Byte) : (s.setSer v).txi = s.txi := rfl
@[simp] theorem State.setSer_txo (v : List Byte) : (s.setSer v).txo = s.txo := rfl
@[simp] theorem State.setSer_byi (v : List Byte) : (s.setSer v).byi = s.byi := rfl
@[simp] theorem State.setSer_byo (v : List Byte) : (s.setSer v).byo = s.byo := rfl
@[simp] theorem State.setSer_ser (v : List Byte) : (s.setSer v).ser = v := rfl
@[simp] theorem State.setSer_pay (v : List Byte) : (s.setSer v).pay = s.pay := rfl
@[simp] theorem State.setSer_bit (v : List Byte) : (s.setSer v).bit = s.bit := rfl
@[simp] theorem State.setSer_ft (v : List Byte) : (s.setSer v).ft = s.ft := rfl
@[simp] theorem State.setSer_ct (v : List Byte) : (s.setSer v).ct = s.ct := rfl
@[simp] theorem State.setSer_tree (v : List Byte) : (s.setSer v).tree = s.tree := rfl
@[simp] theorem State.setSer_err (v : List Byte) : (s.setSer v).err = s.err := rfl
@[simp] theorem State.setSer_errcode (v : List Byte) : (s.setSer v).errcode = s.errcode := rfl
@[simp] theorem State.setSer_hdrVer (v : List Byte) : (s.setSer v).hdrVer = s.hdrVer := rfl
@[simp] theorem State.setSer_hdrPad (v : List Byte) : (s.setSer v).hdrPad = s.hdrPad := rfl
@[simp] theorem State.setSer_hdrOlen (v : List Byte) : (s.setSer v).hdrOlen = s.hdrOlen := rfl
@[simp] theorem State.setSer_hdrTlen (v : List Byte) : (s.setSer v).hdrTlen = s.hdrTlen := rfl
@[simp] theorem State.setSer_host (v : List Byte) : (s.setSer v).host = s.host := rfl
@[simp] theorem State.setSer_reply (v : List Byte) : (s.setSer v).reply = s.reply := rfl

@[simp] theorem State.setTxo_cfg (v : List Symbol) : (s.setTxo v).cfg = s.cfg := rfl
@[simp] theorem State.setTxo_txi (v : List Symbol) : (s.setTxo v).txi = s.txi := rfl
@[simp] theorem State.setTxo_txo (v : List Symbol) : (s.setTxo v).txo = v := rfl
@[simp] theorem State.setTxo_byi (v : List Symbol) : (s.setTxo v).byi = s.byi := rfl
@[simp] theorem State.setTxo_byo (v : List Symbol) : (s.setTxo v).byo = s.byo := rfl
@[simp] theorem State.setTxo_ser (v : List Symbol) : (s.setTxo v).ser = s.ser := rfl
@[simp] theorem State.setTxo_pay (v : List Symbol) : (s.setTxo v).pay = s.pay := rfl
@[simp] theorem State.setTxo_bit (v : List Symbol) : (s.setTxo v).bit = s.bit := rfl
@[simp] theorem State.setTxo_ft (v : List Symbol) : (s.setTxo v).ft = s.ft := rfl
@[simp] theorem State.setTxo_ct (v : List Symbol) : (s.setTxo v).ct = s.ct := rfl
@[simp] theorem State.setTxo_tree (v : List Symbol) : (s.setTxo v).tree = s.tree := rfl
@[simp] theorem State.setTxo_err (v : List Symbol) : (s.setTxo v).err = s.err := rfl
@[simp] theorem State.setTxo_errcode (v : List Symbol) : (s.setTxo v).errcode = s.errcode := rfl
@[simp] theorem State.setTxo_hdrVer (v : List Symbol) : (s.setTxo v).hdrVer = s.hdrVer := rfl
@[simp] theorem State.setTxo_hdrPad (v : List Symbol) : (s.setTxo v).hdrPad = s.hdrPad := rfl
@[simp] theorem State.setTxo_hdrOlen (v : List Symbol) : (s.setTxo v).hdrOlen = s.hdrOlen := rfl
@[simp] theorem State.setTxo_hdrTlen (v : List Symbol) : (s.setTxo v).hdrTlen = s.hdrTlen := rfl
@[simp] theorem State.setTxo_host (v : List Symbol) : (s.setTxo v).host = s.host := rfl
@[simp] theorem State.setTxo_reply (v : List Symbol) : (s.setTxo v).reply = s.reply := rfl

@[simp] theorem State.setPacked_cfg (p : List Byte) (d : Word) : (s.setPacked p d).cfg = s.cfg := rfl
@[simp] theorem State.setPacked_txi (p : List Byte) (d : Word) : (s.setPacked p d).txi = s.txi := rfl
@[simp] theorem State.setPacked_txo (p : List Byte) (d : Word) : (s.setPacked p d).txo = s.txo := rfl
@[simp] theorem State.setPacked_byi (p : List Byte) (d : Word) : (s.setPacked p d).byi = s.byi := rfl
@[simp] theorem State.setPacked_byo (p : List Byte) (d : Word) : (s.setPacked p d).byo = s.byo := rfl
@[simp] theorem State.setPacked_ser (p : List Byte) (d : Word) : (s.setPacked p d).ser = s.ser := rfl
@[simp] theorem State.setPacked_pay (p : List Byte) (d : Word) : (s.setPacked p d).pay = p := rfl
@[simp] theorem State.setPacked_bit (p : List Byte) (d : Word) : (s.setPacked p d).bit = s.bit := rfl
@[simp] theorem State.setPacked_ft (p : List Byte) (d : Word) : (s.setPacked p d).ft = s.ft := rfl
@[simp] theorem State.setPacked_ct (p : List Byte) (d : Word) : (s.setPacked p d).ct = s.ct := rfl
@[simp] theorem State.setPacked_tree (p : List Byte) (d : Word) : (s.setPacked p d).tree = s.tree := rfl
@[simp] theorem State.setPacked_err (p : List Byte) (d : Word) : (s.setPacked p d).err = s.err := rfl
@[simp] theorem State.setPacked_errcode (p : List Byte) (d : Word) : (s.setPacked p d).errcode = s.errcode := rfl
@[simp] theorem State.setPacked_hdrVer (p : List Byte) (d : Word) : (s.setPacked p d).hdrVer = s.hdrVer := rfl
@[simp] theorem State.setPacked_hdrPad (p : List Byte) (d : Word) : (s.setPacked p d).hdrPad = d := rfl
@[simp] theorem State.setPacked_hdrOlen (p : List Byte) (d : Word) : (s.setPacked p d).hdrOlen = s.hdrOlen := rfl
@[simp] theorem State.setPacked_hdrTlen (p : List Byte) (d : Word) : (s.setPacked p d).hdrTlen = s.hdrTlen := rfl
@[simp] theorem State.setPacked_host (p : List Byte) (d : Word) : (s.setPacked p d).host = s.host := rfl
@[simp] theorem State.setPacked_reply (p : List Byte) (d : Word) : (s.setPacked p d).reply = s.reply := rfl

@[simp] theorem State.setContainer_cfg (b : List Byte) (x y z : Word) : (s.setContainer b x y z).cfg = s.cfg := rfl
@[simp] theorem State.setContainer_txi (b : List Byte) (x y z : Word) : (s.setContainer b x y z).txi = s.txi := rfl
@[simp] theorem State.setContainer_txo (b : List Byte) (x y z : Word) : (s.setContainer b x y z).txo = s.txo := rfl
@[simp] theorem State.setContainer_byi (b : List Byte) (x y z : Word) : (s.setContainer b x y z).byi = s.byi := rfl
@[simp] theorem State.setContainer_byo (b : List Byte) (x y z : Word) : (s.setContainer b x y z).byo = b := rfl
@[simp] theorem State.setContainer_ser (b : List Byte) (x y z : Word) : (s.setContainer b x y z).ser = s.ser := rfl
@[simp] theorem State.setContainer_pay (b : List Byte) (x y z : Word) : (s.setContainer b x y z).pay = s.pay := rfl
@[simp] theorem State.setContainer_bit (b : List Byte) (x y z : Word) : (s.setContainer b x y z).bit = s.bit := rfl
@[simp] theorem State.setContainer_ft (b : List Byte) (x y z : Word) : (s.setContainer b x y z).ft = s.ft := rfl
@[simp] theorem State.setContainer_ct (b : List Byte) (x y z : Word) : (s.setContainer b x y z).ct = s.ct := rfl
@[simp] theorem State.setContainer_tree (b : List Byte) (x y z : Word) : (s.setContainer b x y z).tree = s.tree := rfl
@[simp] theorem State.setContainer_err (b : List Byte) (x y z : Word) : (s.setContainer b x y z).err = s.err := rfl
@[simp] theorem State.setContainer_errcode (b : List Byte) (x y z : Word) : (s.setContainer b x y z).errcode = s.errcode := rfl
@[simp] theorem State.setContainer_hdrVer (b : List Byte) (x y z : Word) : (s.setContainer b x y z).hdrVer = x := rfl
@[simp] theorem State.setContainer_hdrPad (b : List Byte) (x y z : Word) : (s.setContainer b x y z).hdrPad = s.hdrPad := rfl
@[simp] theorem State.setContainer_hdrOlen (b : List Byte) (x y z : Word) : (s.setContainer b x y z).hdrOlen = y := rfl
@[simp] theorem State.setContainer_hdrTlen (b : List Byte) (x y z : Word) : (s.setContainer b x y z).hdrTlen = z := rfl
@[simp] theorem State.setContainer_host (b : List Byte) (x y z : Word) : (s.setContainer b x y z).host = s.host := rfl
@[simp] theorem State.setContainer_reply (b : List Byte) (x y z : Word) : (s.setContainer b x y z).reply = s.reply := rfl

@[simp] theorem State.setParsed_cfg (e p : List Byte) (x d y z : Word) : (s.setParsed e p x d y z).cfg = s.cfg := rfl
@[simp] theorem State.setParsed_txi (e p : List Byte) (x d y z : Word) : (s.setParsed e p x d y z).txi = s.txi := rfl
@[simp] theorem State.setParsed_txo (e p : List Byte) (x d y z : Word) : (s.setParsed e p x d y z).txo = s.txo := rfl
@[simp] theorem State.setParsed_byi (e p : List Byte) (x d y z : Word) : (s.setParsed e p x d y z).byi = s.byi := rfl
@[simp] theorem State.setParsed_byo (e p : List Byte) (x d y z : Word) : (s.setParsed e p x d y z).byo = s.byo := rfl
@[simp] theorem State.setParsed_ser (e p : List Byte) (x d y z : Word) : (s.setParsed e p x d y z).ser = e := rfl
@[simp] theorem State.setParsed_pay (e p : List Byte) (x d y z : Word) : (s.setParsed e p x d y z).pay = p := rfl
@[simp] theorem State.setParsed_bit (e p : List Byte) (x d y z : Word) : (s.setParsed e p x d y z).bit = s.bit := rfl
@[simp] theorem State.setParsed_ft (e p : List Byte) (x d y z : Word) : (s.setParsed e p x d y z).ft = s.ft := rfl
@[simp] theorem State.setParsed_ct (e p : List Byte) (x d y z : Word) : (s.setParsed e p x d y z).ct = s.ct := rfl
@[simp] theorem State.setParsed_tree (e p : List Byte) (x d y z : Word) : (s.setParsed e p x d y z).tree = s.tree := rfl
@[simp] theorem State.setParsed_err (e p : List Byte) (x d y z : Word) : (s.setParsed e p x d y z).err = s.err := rfl
@[simp] theorem State.setParsed_errcode (e p : List Byte) (x d y z : Word) : (s.setParsed e p x d y z).errcode = s.errcode := rfl
@[simp] theorem State.setParsed_hdrVer (e p : List Byte) (x d y z : Word) : (s.setParsed e p x d y z).hdrVer = x := rfl
@[simp] theorem State.setParsed_hdrPad (e p : List Byte) (x d y z : Word) : (s.setParsed e p x d y z).hdrPad = d := rfl
@[simp] theorem State.setParsed_hdrOlen (e p : List Byte) (x d y z : Word) : (s.setParsed e p x d y z).hdrOlen = y := rfl
@[simp] theorem State.setParsed_hdrTlen (e p : List Byte) (x d y z : Word) : (s.setParsed e p x d y z).hdrTlen = z := rfl
@[simp] theorem State.setParsed_host (e p : List Byte) (x d y z : Word) : (s.setParsed e p x d y z).host = s.host := rfl
@[simp] theorem State.setParsed_reply (e p : List Byte) (x d y z : Word) : (s.setParsed e p x d y z).reply = s.reply := rfl

@[simp] theorem State.clearWork_cfg : s.clearWork.cfg = s.cfg := rfl
@[simp] theorem State.clearWork_txi : s.clearWork.txi = s.txi := rfl
@[simp] theorem State.clearWork_txo : s.clearWork.txo = [] := rfl
@[simp] theorem State.clearWork_byi : s.clearWork.byi = s.byi := rfl
@[simp] theorem State.clearWork_byo : s.clearWork.byo = [] := rfl
@[simp] theorem State.clearWork_ser : s.clearWork.ser = [] := rfl
@[simp] theorem State.clearWork_pay : s.clearWork.pay = [] := rfl
@[simp] theorem State.clearWork_bit : s.clearWork.bit = [] := rfl
@[simp] theorem State.clearWork_ft : s.clearWork.ft = [] := rfl
@[simp] theorem State.clearWork_ct : s.clearWork.ct = [] := rfl
@[simp] theorem State.clearWork_tree : s.clearWork.tree = .absent := rfl
@[simp] theorem State.clearWork_err : s.clearWork.err = s.err := rfl
@[simp] theorem State.clearWork_errcode : s.clearWork.errcode = s.errcode := rfl
@[simp] theorem State.clearWork_hdrVer : s.clearWork.hdrVer = 0#32 := rfl
@[simp] theorem State.clearWork_hdrPad : s.clearWork.hdrPad = 0#32 := rfl
@[simp] theorem State.clearWork_hdrOlen : s.clearWork.hdrOlen = 0#32 := rfl
@[simp] theorem State.clearWork_hdrTlen : s.clearWork.hdrTlen = 0#32 := rfl
@[simp] theorem State.clearWork_host : s.clearWork.host = s.host := rfl
@[simp] theorem State.clearWork_reply : s.clearWork.reply = s.reply := rfl

@[simp] theorem State.clearInputs_cfg : s.clearInputs.cfg = s.cfg := rfl
@[simp] theorem State.clearInputs_txi : s.clearInputs.txi = [] := rfl
@[simp] theorem State.clearInputs_txo : s.clearInputs.txo = s.txo := rfl
@[simp] theorem State.clearInputs_byi : s.clearInputs.byi = [] := rfl
@[simp] theorem State.clearInputs_byo : s.clearInputs.byo = s.byo := rfl
@[simp] theorem State.clearInputs_ser : s.clearInputs.ser = s.ser := rfl
@[simp] theorem State.clearInputs_pay : s.clearInputs.pay = s.pay := rfl
@[simp] theorem State.clearInputs_bit : s.clearInputs.bit = s.bit := rfl
@[simp] theorem State.clearInputs_ft : s.clearInputs.ft = s.ft := rfl
@[simp] theorem State.clearInputs_ct : s.clearInputs.ct = s.ct := rfl
@[simp] theorem State.clearInputs_tree : s.clearInputs.tree = s.tree := rfl
@[simp] theorem State.clearInputs_err : s.clearInputs.err = s.err := rfl
@[simp] theorem State.clearInputs_errcode : s.clearInputs.errcode = s.errcode := rfl
@[simp] theorem State.clearInputs_hdrVer : s.clearInputs.hdrVer = s.hdrVer := rfl
@[simp] theorem State.clearInputs_hdrPad : s.clearInputs.hdrPad = s.hdrPad := rfl
@[simp] theorem State.clearInputs_hdrOlen : s.clearInputs.hdrOlen = s.hdrOlen := rfl
@[simp] theorem State.clearInputs_hdrTlen : s.clearInputs.hdrTlen = s.hdrTlen := rfl
@[simp] theorem State.clearInputs_host : s.clearInputs.host = s.host := rfl
@[simp] theorem State.clearInputs_reply : s.clearInputs.reply = s.reply := rfl

@[simp] theorem State.resetBlock_cfg : s.resetBlock.cfg = s.cfg := rfl
@[simp] theorem State.resetBlock_txi : s.resetBlock.txi = [] := rfl
@[simp] theorem State.resetBlock_txo : s.resetBlock.txo = [] := rfl
@[simp] theorem State.resetBlock_byi : s.resetBlock.byi = [] := rfl
@[simp] theorem State.resetBlock_byo : s.resetBlock.byo = [] := rfl
@[simp] theorem State.resetBlock_ser : s.resetBlock.ser = [] := rfl
@[simp] theorem State.resetBlock_pay : s.resetBlock.pay = [] := rfl
@[simp] theorem State.resetBlock_bit : s.resetBlock.bit = [] := rfl
@[simp] theorem State.resetBlock_ft : s.resetBlock.ft = [] := rfl
@[simp] theorem State.resetBlock_ct : s.resetBlock.ct = [] := rfl
@[simp] theorem State.resetBlock_tree : s.resetBlock.tree = .absent := rfl
@[simp] theorem State.resetBlock_err : s.resetBlock.err = false := rfl
@[simp] theorem State.resetBlock_errcode : s.resetBlock.errcode = 0#32 := rfl
@[simp] theorem State.resetBlock_hdrVer : s.resetBlock.hdrVer = 0#32 := rfl
@[simp] theorem State.resetBlock_hdrPad : s.resetBlock.hdrPad = 0#32 := rfl
@[simp] theorem State.resetBlock_hdrOlen : s.resetBlock.hdrOlen = 0#32 := rfl
@[simp] theorem State.resetBlock_hdrTlen : s.resetBlock.hdrTlen = 0#32 := rfl
@[simp] theorem State.resetBlock_host : s.resetBlock.host = s.host := rfl
@[simp] theorem State.resetBlock_reply : s.resetBlock.reply = s.reply := rfl

@[simp] theorem State.dropTxn_cfg : s.dropTxn.cfg = s.cfg := rfl
@[simp] theorem State.dropTxn_txi : s.dropTxn.txi = s.txi := rfl
@[simp] theorem State.dropTxn_txo : s.dropTxn.txo = s.txo := rfl
@[simp] theorem State.dropTxn_byi : s.dropTxn.byi = s.byi := rfl
@[simp] theorem State.dropTxn_byo : s.dropTxn.byo = s.byo := rfl
@[simp] theorem State.dropTxn_ser : s.dropTxn.ser = s.ser := rfl
@[simp] theorem State.dropTxn_pay : s.dropTxn.pay = s.pay := rfl
@[simp] theorem State.dropTxn_bit : s.dropTxn.bit = s.bit := rfl
@[simp] theorem State.dropTxn_ft : s.dropTxn.ft = s.ft := rfl
@[simp] theorem State.dropTxn_ct : s.dropTxn.ct = s.ct := rfl
@[simp] theorem State.dropTxn_tree : s.dropTxn.tree = s.tree := rfl
@[simp] theorem State.dropTxn_err : s.dropTxn.err = s.err := rfl
@[simp] theorem State.dropTxn_errcode : s.dropTxn.errcode = s.errcode := rfl
@[simp] theorem State.dropTxn_hdrVer : s.dropTxn.hdrVer = s.hdrVer := rfl
@[simp] theorem State.dropTxn_hdrPad : s.dropTxn.hdrPad = s.hdrPad := rfl
@[simp] theorem State.dropTxn_hdrOlen : s.dropTxn.hdrOlen = s.hdrOlen := rfl
@[simp] theorem State.dropTxn_hdrTlen : s.dropTxn.hdrTlen = s.hdrTlen := rfl
@[simp] theorem State.dropTxn_host : s.dropTxn.host = s.host.tail := rfl
@[simp] theorem State.dropTxn_reply : s.dropTxn.reply = s.reply := rfl

@[simp] theorem State.setReply_cfg (v : HostValue) : (s.setReply v).cfg = s.cfg := rfl
@[simp] theorem State.setReply_txi (v : HostValue) : (s.setReply v).txi = s.txi := rfl
@[simp] theorem State.setReply_txo (v : HostValue) : (s.setReply v).txo = s.txo := rfl
@[simp] theorem State.setReply_byi (v : HostValue) : (s.setReply v).byi = s.byi := rfl
@[simp] theorem State.setReply_byo (v : HostValue) : (s.setReply v).byo = s.byo := rfl
@[simp] theorem State.setReply_ser (v : HostValue) : (s.setReply v).ser = s.ser := rfl
@[simp] theorem State.setReply_pay (v : HostValue) : (s.setReply v).pay = s.pay := rfl
@[simp] theorem State.setReply_bit (v : HostValue) : (s.setReply v).bit = s.bit := rfl
@[simp] theorem State.setReply_ft (v : HostValue) : (s.setReply v).ft = s.ft := rfl
@[simp] theorem State.setReply_ct (v : HostValue) : (s.setReply v).ct = s.ct := rfl
@[simp] theorem State.setReply_tree (v : HostValue) : (s.setReply v).tree = s.tree := rfl
@[simp] theorem State.setReply_err (v : HostValue) : (s.setReply v).err = s.err := rfl
@[simp] theorem State.setReply_errcode (v : HostValue) : (s.setReply v).errcode = s.errcode := rfl
@[simp] theorem State.setReply_hdrVer (v : HostValue) : (s.setReply v).hdrVer = s.hdrVer := rfl
@[simp] theorem State.setReply_hdrPad (v : HostValue) : (s.setReply v).hdrPad = s.hdrPad := rfl
@[simp] theorem State.setReply_hdrOlen (v : HostValue) : (s.setReply v).hdrOlen = s.hdrOlen := rfl
@[simp] theorem State.setReply_hdrTlen (v : HostValue) : (s.setReply v).hdrTlen = s.hdrTlen := rfl
@[simp] theorem State.setReply_host (v : HostValue) : (s.setReply v).host = s.host := rfl
@[simp] theorem State.setReply_reply (v : HostValue) : (s.setReply v).reply = some v := rfl

@[simp] theorem State.endOk_cfg : s.endOk.cfg = s.cfg := rfl
@[simp] theorem State.endOk_txi : s.endOk.txi = s.txi := rfl
@[simp] theorem State.endOk_txo : s.endOk.txo = s.txo := rfl
@[simp] theorem State.endOk_byi : s.endOk.byi = s.byi := rfl
@[simp] theorem State.endOk_byo : s.endOk.byo = s.byo := rfl
@[simp] theorem State.endOk_ser : s.endOk.ser = s.ser := rfl
@[simp] theorem State.endOk_pay : s.endOk.pay = s.pay := rfl
@[simp] theorem State.endOk_bit : s.endOk.bit = s.bit := rfl
@[simp] theorem State.endOk_ft : s.endOk.ft = s.ft := rfl
@[simp] theorem State.endOk_ct : s.endOk.ct = s.ct := rfl
@[simp] theorem State.endOk_tree : s.endOk.tree = s.tree := rfl
@[simp] theorem State.endOk_err : s.endOk.err = false := rfl
@[simp] theorem State.endOk_errcode : s.endOk.errcode = 0#32 := rfl
@[simp] theorem State.endOk_hdrVer : s.endOk.hdrVer = s.hdrVer := rfl
@[simp] theorem State.endOk_hdrPad : s.endOk.hdrPad = s.hdrPad := rfl
@[simp] theorem State.endOk_hdrOlen : s.endOk.hdrOlen = s.hdrOlen := rfl
@[simp] theorem State.endOk_hdrTlen : s.endOk.hdrTlen = s.hdrTlen := rfl
@[simp] theorem State.endOk_host : s.endOk.host = s.host := rfl
@[simp] theorem State.endOk_reply : s.endOk.reply = s.reply := rfl

@[simp] theorem State.takeError_cfg (e : ErrCode) : (s.takeError e).cfg = s.cfg := rfl
@[simp] theorem State.takeError_txi (e : ErrCode) : (s.takeError e).txi = s.txi := rfl
@[simp] theorem State.takeError_txo (e : ErrCode) : (s.takeError e).txo = s.txo := rfl
@[simp] theorem State.takeError_byi (e : ErrCode) : (s.takeError e).byi = s.byi := rfl
@[simp] theorem State.takeError_byo (e : ErrCode) : (s.takeError e).byo = s.byo := rfl
@[simp] theorem State.takeError_ser (e : ErrCode) : (s.takeError e).ser = s.ser := rfl
@[simp] theorem State.takeError_pay (e : ErrCode) : (s.takeError e).pay = s.pay := rfl
@[simp] theorem State.takeError_bit (e : ErrCode) : (s.takeError e).bit = s.bit := rfl
@[simp] theorem State.takeError_ft (e : ErrCode) : (s.takeError e).ft = s.ft := rfl
@[simp] theorem State.takeError_ct (e : ErrCode) : (s.takeError e).ct = s.ct := rfl
@[simp] theorem State.takeError_tree (e : ErrCode) : (s.takeError e).tree = s.tree := rfl
@[simp] theorem State.takeError_err (e : ErrCode) : (s.takeError e).err = true := rfl
@[simp] theorem State.takeError_errcode (e : ErrCode) : (s.takeError e).errcode = e.code := rfl
@[simp] theorem State.takeError_hdrVer (e : ErrCode) : (s.takeError e).hdrVer = s.hdrVer := rfl
@[simp] theorem State.takeError_hdrPad (e : ErrCode) : (s.takeError e).hdrPad = s.hdrPad := rfl
@[simp] theorem State.takeError_hdrOlen (e : ErrCode) : (s.takeError e).hdrOlen = s.hdrOlen := rfl
@[simp] theorem State.takeError_hdrTlen (e : ErrCode) : (s.takeError e).hdrTlen = s.hdrTlen := rfl
@[simp] theorem State.takeError_host (e : ErrCode) : (s.takeError e).host = s.host := rfl
@[simp] theorem State.takeError_reply (e : ErrCode) : (s.takeError e).reply = s.reply := rfl

end Sys2Proof.Machine
end

