-- ==== Sys2Proof/Laws/Commands.lean ====
section
/-! SUPPORT. Everything a command's end, and each stage, can do: one inversion lemma each, which proofs cite instead of unfolding. -/

namespace Sys2Proof.Machine

variable {s t : State}

/-- What the end of a command can answer (60_exceptions.md R231). -/
theorem endCommand_next {z : State} {r : Except ErrCode State} (h : endCommand z r = .next t) :
    (∃ u, r = .ok u ∧ t = u.endOk) ∨ (∃ e, r = .error e ∧ t = z.takeError e) := by
  cases r with
  | ok u => cases h; exact .inl ⟨u, rfl, rfl⟩
  | error e => cases h; exact .inr ⟨e, rfl, rfl⟩

/-- A command that ends with ERR clear ended its stages without a raise. -/
theorem endCommand_next_ok {z : State} {r : Except ErrCode State} (h : endCommand z r = .next t)
    (he : t.err = false) : ∃ u, r = .ok u ∧ t = u.endOk := by
  rcases endCommand_next h with h | ⟨e, -, rfl⟩
  · exact h
  · simp at he

/-- A command that ends with ERR set ended at a raise. -/
theorem endCommand_next_error {z : State} {r : Except ErrCode State} (h : endCommand z r = .next t)
    (he : t.err = true) : ∃ e, r = .error e ∧ t = z.takeError e := by
  rcases endCommand_next h with ⟨u, -, rfl⟩ | h
  · simp at he
  · exact h

theorem ErrCode.code_ne_zero (e : ErrCode) : e.code ≠ 0#32 := by cases e <;> decide

theorem ErrCode.code_le (e : ErrCode) : e.code.toNat ≤ 13 := by cases e <;> decide

/-- A sequence of two stages succeeds exactly when both do. -/
theorem bind_ok {α β : Type} {x : Except ErrCode α} {f : α → Except ErrCode β} {r : β} :
    (x >>= f) = .ok r ↔ ∃ a, x = .ok a ∧ f a = .ok r := by
  cases x with
  | ok a => simp [bind, Except.bind]
  | error e => simp [bind, Except.bind]

/-- A sequence of two stages raises what the first raises, or what the second raises after it. -/
theorem bind_error {α β : Type} {x : Except ErrCode α} {f : α → Except ErrCode β} {e : ErrCode} :
    (x >>= f) = .error e ↔ x = .error e ∨ ∃ a, x = .ok a ∧ f a = .error e := by
  cases x with
  | ok a => simp [bind, Except.bind]
  | error e' => simp [bind, Except.bind]

/-- A check that raises: the rest succeeds exactly when the check does not fire. -/
theorem check_ok {α : Type} {c : Prop} [Decidable c] {e : ErrCode} {x : Except ErrCode α} {r : α} :
    (if c then .error e else x) = .ok r ↔ ¬ c ∧ x = .ok r := by
  by_cases h : c <;> simp [h]

theorem ok_eq {α : Type} {a b : α} : (Except.ok a : Except ErrCode α) = .ok b ↔ b = a := by
  rw [Except.ok.injEq, eq_comm]

theorem stageAnalyze_ok : stageAnalyze s = .ok t ↔
    (countSymbols s.txi).length ≤ s.cfg.symsMax ∧ t = s.setFt (countSymbols s.txi) := by
  unfold stageAnalyze
  rw [check_ok, ok_eq, Nat.not_lt]

theorem stageBuild_ok : stageBuild s = .ok t ↔
    ∃ tree, buildWith keyBefore s.cfg.nodeMax s.ft = .ok tree ∧ t = s.setTree tree := by
  unfold stageBuild
  rw [bind_ok]
  exact exists_congr fun tree => and_congr_right fun _ => ok_eq

theorem stageTser_ok : stageTser s = .ok t ↔
    s.tree.depth ≤ s.cfg.depthMax ∧ (ser s.tree).length ≤ s.cfg.bytMax ∧ t = s.setSer (ser s.tree) := by
  unfold stageTser
  rw [check_ok, check_ok, ok_eq, Nat.not_lt, Nat.not_lt]

theorem stageTdes_ok : stageTdes s = .ok t ↔
    ∃ tree, des s.ser = some tree ∧ t = s.setTree tree ∧
      (tree = .absent ∨ (tree.nodes ≤ s.cfg.nodeMax ∧ tree.depth ≤ s.cfg.depthMax)) := by
  unfold stageTdes
  cases hd : des s.ser with
  | none => simp
  | some u =>
    cases u with
    | absent => simp [eq_comm]
    | node f c l r =>
      simp only [check_ok, ok_eq, not_or, Nat.not_lt, Option.some.injEq, exists_eq_left', reduceCtorEq, false_or]
      exact and_comm

theorem stageGencodes_ok : stageGencodes s = .ok t ↔
    s.tree.depth ≤ s.cfg.depthMax ∧ (codesOf s.tree).length ≤ s.cfg.symsMax ∧ t = s.setCt (codesOf s.tree) := by
  unfold stageGencodes
  rw [check_ok, check_ok, ok_eq, Nat.not_lt, Nat.not_lt]

theorem stageMapbits_ok : stageMapbits s = .ok t ↔
    ∃ bits, mapBits s.ct s.txi = .ok bits ∧ bits.length ≤ s.cfg.bitMax ∧ t = s.setBit bits := by
  unfold stageMapbits
  rw [bind_ok]
  refine exists_congr fun bits => and_congr_right fun _ => ?_
  rw [check_ok, ok_eq, Nat.not_lt]

theorem stagePack_ok : stagePack s = .ok t ↔
    (s.bit.length + padCount s.bit.length) / 8 ≤ s.cfg.bytMax ∧
      t = s.setPacked (packBytes (s.bit ++ List.replicate (padCount s.bit.length) false))
        (BitVec.ofNat 32 (padCount s.bit.length)) := by
  unfold stagePack
  dsimp only
  rw [check_ok, ok_eq, Nat.not_lt]

theorem stageAssemble_ok : stageAssemble s = .ok t ↔
    (assembled s).length ≤ s.cfg.bytMax ∧
      t = s.setContainer (assembled s) 1#32 (BitVec.ofNat 32 s.txi.length) (BitVec.ofNat 32 s.ser.length) := by
  unfold stageAssemble
  rw [check_ok, ok_eq, Nat.not_lt]

theorem stageEmptyFile_ok : stageEmptyFile s = .ok t ↔
    emptyFile.length ≤ s.cfg.bytMax ∧
      t = ((s.setSer emptyRecord).setPacked [] 0#32).setContainer emptyFile 1#32 0#32 2#32 := by
  unfold stageEmptyFile
  rw [check_ok, ok_eq, Nat.not_lt]

/-- A container parses exactly when its five checks pass (44_decoder.md R170). -/
theorem parseContainer_ok {b : List Byte} {c : Parts} : parseContainer b = .ok c ↔
    14 ≤ b.length ∧ b.take 4 = magicBytes ∧ byteAt b 4 = 1#8 ∧ (byteAt b 5).toNat ≤ 7 ∧
      (be32At b 10).toNat ≤ b.length - 14 ∧
      c = ⟨(b.drop 14).take (be32At b 10).toNat, b.drop (14 + (be32At b 10).toNat), (byteAt b 4).setWidth 32,
        (byteAt b 5).setWidth 32, be32At b 6, be32At b 10⟩ := by
  unfold parseContainer
  rw [check_ok, check_ok, check_ok, check_ok, check_ok, ok_eq, Nat.not_lt, Nat.not_lt, Nat.not_lt]
  simp only [ne_eq, not_not]

theorem stageParse_ok : stageParse s = .ok t ↔
    ∃ c, parseContainer s.byi = .ok c ∧ t = s.setParsed c.ser c.pay c.ver c.pad c.olen c.tlen := by
  unfold stageParse
  rw [bind_ok]
  exact exists_congr fun c => and_congr_right fun _ => ok_eq

/-- PARSE raises what its checks of BYI raise, whatever the rest of the state. -/
theorem stageParse_error {e : ErrCode} : stageParse s = .error e ↔ parseContainer s.byi = .error e := by
  unfold stageParse
  rw [bind_error]
  simp

theorem stageUnpack_ok : stageUnpack s = .ok t ↔
    (keptBits s.pay s.hdrPad).length ≤ s.cfg.bitMax ∧
      ∃ text, unpackText s.tree (keptBits s.pay s.hdrPad) s.hdrOlen.toNat = .ok text ∧
        text.length ≤ s.cfg.txtMax ∧ t = (s.setBit (keptBits s.pay s.hdrPad)).setTxo text := by
  unfold stageUnpack
  dsimp only
  rw [check_ok, bind_ok, Nat.not_lt]
  refine and_congr_right fun _ => exists_congr fun text => and_congr_right fun _ => ?_
  rw [check_ok, ok_eq, Nat.not_lt]

/-- The stages of BUILDTXT, seen from a success (43_encoder.md R150). -/
theorem stagesBuildtxt_ok : stagesBuildtxt s = .ok t ↔
    ∃ s₁, stageAnalyze s = .ok s₁ ∧ ∃ s₂, stageBuild s₁ = .ok s₂ ∧ stageGencodes s₂ = .ok t := by
  unfold stagesBuildtxt
  simp only [bind_ok]

/-- The stages of ENCODE on a non-empty text, seen from a success (43_encoder.md R154). -/
theorem stagesEncode_ok : stagesEncode s = .ok t ↔
    ∃ s₁, stageAnalyze s = .ok s₁ ∧ ∃ s₂, stageBuild s₁ = .ok s₂ ∧ ∃ s₃, stageGencodes s₂ = .ok s₃ ∧
      ∃ s₄, stageMapbits s₃ = .ok s₄ ∧ ∃ s₅, stagePack s₄ = .ok s₅ ∧ ∃ s₆, stageTser s₅ = .ok s₆ ∧
        stageAssemble s₆ = .ok t := by
  unfold stagesEncode
  simp only [bind_ok]

theorem container_length (ver pad : Byte) (olen : Word) (ser pay : List Byte) :
    (container ver pad olen ser pay).length = 14 + ser.length + pay.length := by
  simp [container, magicBytes, be32Bytes]; omega

/-- The stages of DECODE, seen from a success: PARSE, then one of the three ends (44_decoder.md R174). -/
theorem stagesDecode_ok : stagesDecode s = .ok t ↔
    ∃ p, stageParse s = .ok p ∧
      ((p.hdrOlen = 0#32 ∧ t = p.setTxo []) ∨
        (p.hdrOlen ≠ 0#32 ∧ ∃ q, stageTdes p = .ok q ∧
          ((q.tree = .absent ∧ t = q.setTxo []) ∨ (q.tree ≠ .absent ∧ stageUnpack q = .ok t)))) := by
  unfold stagesDecode
  rw [bind_ok]
  refine exists_congr fun p => and_congr_right fun _ => ?_
  by_cases hz : p.hdrOlen = 0#32
  · simp [hz, eq_comm]
  · simp only [hz, if_false, bind_ok, false_and, false_or, ne_eq, not_false_eq_true, true_and]
    refine exists_congr fun q => and_congr_right fun _ => ?_
    by_cases hq : q.tree = .absent
    · simp [hq, eq_comm]
    · simp [hq]

/-- An error of TDES depends on SER and the capacities alone. -/
theorem stageTdes_error_congr {a b : State} {e : ErrCode} (hser : a.ser = b.ser) (hcfg : a.cfg = b.cfg)
    (h : stageTdes a = .error e) : stageTdes b = .error e := by
  unfold stageTdes at h ⊢
  rw [hser, hcfg] at h
  split at h
  · simp_all
  · simp_all
  · split at h <;> simp_all

/-- An error of UNPACK depends on its operands and the capacities alone. -/
theorem stageUnpack_error_congr {a b : State} {e : ErrCode} (hpay : a.pay = b.pay) (hpad : a.hdrPad = b.hdrPad)
    (holen : a.hdrOlen = b.hdrOlen) (htree : a.tree = b.tree) (hcfg : a.cfg = b.cfg)
    (h : stageUnpack a = .error e) : stageUnpack b = .error e := by
  unfold stageUnpack at h ⊢
  rw [hpay, hpad, holen, htree, hcfg] at h
  dsimp only at h ⊢
  split at h
  · rw [if_pos ‹_›]; exact h
  · rw [if_neg ‹_›]
    rw [bind_error] at h ⊢
    rcases h with h | ⟨x, hx, h⟩
    · exact .inl h
    · refine .inr ⟨x, hx, ?_⟩
      split at h <;> simp_all

end Sys2Proof.Machine
end

