-- ==== Sys2Proof/Laws/Maps.lean ====
section
/-! SUPPORT. What the map operations of Machine/Ops.lean do: lookup after insertion, and that the canonical form is kept. -/

namespace Sys2Proof.Machine

variable {α : Type}

theorem Symbol.toNat_ne {a b : Symbol} (h : a ≠ b) : a.toNat ≠ b.toNat :=
  fun e => h (Char.toNat_inj.mp e)

theorem SymMap.get?_insert (k k' : Symbol) (v : α) (m : SymMap α) :
    SymMap.get? k' (SymMap.insert k v m) = if k = k' then some v else SymMap.get? k' m := by
  induction m with
  | nil => simp [SymMap.insert, SymMap.get?]
  | cons x m ih =>
    obtain ⟨k₀, v₀⟩ := x
    simp only [SymMap.insert]
    split
    · simp [SymMap.get?]
    · split
      · subst_vars; simp only [SymMap.get?]; split <;> simp_all
      · simp only [SymMap.get?, ih]
        split <;> split <;> simp_all

theorem SymMap.mem_keys_insert (k k' : Symbol) (v : α) (m : SymMap α) :
    k' ∈ (SymMap.insert k v m).map Prod.fst ↔ k' = k ∨ k' ∈ m.map Prod.fst := by
  induction m with
  | nil => simp [SymMap.insert]
  | cons x m ih =>
    obtain ⟨k₀, v₀⟩ := x
    simp only [SymMap.insert]
    split
    · simp
    · split
      · subst_vars; simp
      · simp only [List.map_cons, List.mem_cons, ih]; tauto

theorem SymMap.wf_iff (m : SymMap α) : SymMap.wf m = true ↔ m.Pairwise fun a b => a.1.toNat < b.1.toNat := by
  simp [SymMap.wf]

theorem SymMap.wf_nil : SymMap.wf ([] : SymMap α) = true := by simp [SymMap.wf]

/-- Insertion keeps the canonical form. -/
theorem SymMap.wf_insert (k : Symbol) (v : α) (m : SymMap α) (h : SymMap.wf m = true) :
    SymMap.wf (SymMap.insert k v m) = true := by
  rw [SymMap.wf_iff] at h ⊢
  induction m with
  | nil => simp [SymMap.insert]
  | cons x m ih =>
    obtain ⟨k₀, v₀⟩ := x
    rw [List.pairwise_cons] at h
    simp only [SymMap.insert]
    split
    · rename_i hlt
      refine List.pairwise_cons.mpr ⟨fun y hy => ?_, List.pairwise_cons.mpr h⟩
      rcases List.mem_cons.mp hy with rfl | hy
      · exact hlt
      · exact lt_trans hlt (h.1 y hy)
    · split
      · subst_vars; exact List.pairwise_cons.mpr h
      · rename_i hge hne
        refine List.pairwise_cons.mpr ⟨fun y hy => ?_, ih h.2⟩
        have := (SymMap.mem_keys_insert k y.1 v m).mp (List.mem_map_of_mem hy)
        rcases this with e | hm
        · have := Symbol.toNat_ne hne; rw [e]; simp only at this ⊢; omega
        · obtain ⟨z, hz, e⟩ := List.mem_map.mp hm
          rw [← e]; exact h.1 z hz

theorem SymMap.wf_keys_nodup (m : SymMap α) (h : SymMap.wf m = true) : (m.map Prod.fst).Nodup := by
  rw [SymMap.wf_iff] at h
  refine List.pairwise_map.mpr (h.imp fun {a b} hab => ?_)
  intro e
  rw [e] at hab
  exact lt_irrefl _ hab

theorem SymMap.get?_eq_none (k : Symbol) (m : SymMap α) : SymMap.get? k m = none ↔ k ∉ m.map Prod.fst := by
  induction m with
  | nil => simp [SymMap.get?]
  | cons x m ih =>
    obtain ⟨k₀, v₀⟩ := x
    simp only [SymMap.get?, List.map_cons, List.mem_cons]
    split
    · rename_i h; simp [h]
    · rename_i h; rw [ih, not_or]; exact ⟨fun h' => ⟨fun e => h e.symm, h'⟩, fun h' => h'.2⟩

theorem SymMap.mem_of_get? {k : Symbol} {v : α} {m : SymMap α} (h : SymMap.get? k m = some v) : (k, v) ∈ m := by
  induction m with
  | nil => simp [SymMap.get?] at h
  | cons x m ih =>
    obtain ⟨k₀, v₀⟩ := x
    simp only [SymMap.get?] at h
    split at h
    · simp_all
    · exact List.mem_cons_of_mem _ (ih h)

theorem SymMap.get?_of_mem {k : Symbol} {v : α} {m : SymMap α} (hm : (m.map Prod.fst).Nodup) (h : (k, v) ∈ m) :
    SymMap.get? k m = some v := by
  induction m with
  | nil => simp at h
  | cons x m ih =>
    obtain ⟨k₀, v₀⟩ := x
    simp only [SymMap.get?]
    simp only [List.map_cons, List.nodup_cons] at hm
    rcases List.mem_cons.mp h with e | h
    · simp_all
    · have : k₀ ≠ k := fun e => hm.1 (by rw [e]; exact List.mem_map_of_mem h)
      rw [if_neg this]; exact ih hm.2 h

/-- The canonical form is unique: two maps in it with the same entries are the same data. -/
theorem SymMap.ext_of_wf {m m' : SymMap α} (h : SymMap.wf m = true) (h' : SymMap.wf m' = true)
    (e : ∀ k, SymMap.get? k m = SymMap.get? k m') : m = m' := by
  have hp : m.Perm m' := by
    refine (List.perm_ext_iff_of_nodup (List.Nodup.of_map _ (SymMap.wf_keys_nodup m h))
      (List.Nodup.of_map _ (SymMap.wf_keys_nodup m' h'))).mpr ?_
    rintro ⟨k, v⟩
    exact ⟨fun hm => SymMap.mem_of_get? ((e k) ▸ SymMap.get?_of_mem (SymMap.wf_keys_nodup m h) hm),
      fun hm => SymMap.mem_of_get? ((e k).symm ▸ SymMap.get?_of_mem (SymMap.wf_keys_nodup m' h') hm)⟩
  rw [SymMap.wf_iff] at h h'
  exact List.Perm.eq_of_pairwise (fun a b _ _ h1 h2 => absurd (lt_trans h1 h2) (lt_irrefl _)) h h' hp

theorem SymMap.wf_foldl_insert (l : List (Symbol × α)) (m : SymMap α) (h : SymMap.wf m = true) :
    SymMap.wf (l.foldl (fun m kv => SymMap.insert kv.1 kv.2 m) m) = true := by
  induction l generalizing m with
  | nil => exact h
  | cons x l ih => exact ih _ (SymMap.wf_insert _ _ _ h)

/-- A loaded map is in canonical form. -/
theorem SymMap.wf_ofList (l : List (Symbol × α)) : SymMap.wf (SymMap.ofList l) = true :=
  SymMap.wf_foldl_insert l [] SymMap.wf_nil

theorem SymMap.insert_perm {k : Symbol} {v : α} {m : SymMap α} (h : k ∉ m.map Prod.fst) :
    (SymMap.insert k v m).Perm ((k, v) :: m) := by
  induction m with
  | nil => simp [SymMap.insert]
  | cons x m ih =>
    obtain ⟨k₀, v₀⟩ := x
    simp only [List.map_cons, List.mem_cons, not_or] at h
    simp only [SymMap.insert]
    split
    · exact List.Perm.refl _
    · rw [if_neg (Ne.symm h.1)]
      exact ((ih h.2).cons _).trans (List.Perm.swap _ _ _)

theorem SymMap.foldl_insert_perm (l : List (Symbol × α)) (m : SymMap α)
    (h : ((l ++ m).map Prod.fst).Nodup) :
    (l.foldl (fun m kv => SymMap.insert kv.1 kv.2 m) m).Perm (l ++ m) := by
  induction l generalizing m with
  | nil => exact List.Perm.refl _
  | cons x l ih =>
    simp only [List.cons_append, List.map_cons, List.nodup_cons] at h
    have hx : x.1 ∉ m.map Prod.fst := fun hm => h.1 (by simp only [List.map_append]; exact List.mem_append_right _ hm)
    have hp : (l ++ SymMap.insert x.1 x.2 m).Perm (x :: (l ++ m)) :=
      ((SymMap.insert_perm hx).append_left l).trans List.perm_middle
    refine (ih (SymMap.insert x.1 x.2 m) ?_).trans hp
    exact (hp.map Prod.fst).nodup_iff.mpr (by simpa using h)

/-- A loaded map has the entries listed, when no key is listed twice. -/
theorem SymMap.ofList_perm (l : List (Symbol × α)) (h : (l.map Prod.fst).Nodup) : (SymMap.ofList l).Perm l := by
  have := SymMap.foldl_insert_perm l [] (by simpa using h)
  simpa [SymMap.ofList] using this

/-- The state after reset holds its maps in canonical form. -/
theorem Memory.wf_resetOf (c : Config) : Memory.wf (State.resetOf c) = true := by
  simp [Memory.wf, State.resetOf, SymMap.wf_nil]

end Sys2Proof.Machine
end

