-- ==== Sys2Proof/Laws/FreqAnalyze.lean ====
section
/-! SUPPORT. What ANALYZE's table is (40_freq_analyze.md R110): canonical, one key per symbol of the text, its count. -/

namespace Sys2Proof.Machine

theorem countSymbols_append_singleton (text : List Symbol) (c : Symbol) :
    countSymbols (text ++ [c]) = countSymbol (countSymbols text) c := by
  simp [countSymbols]

theorem wf_countSymbols (text : List Symbol) : SymMap.wf (countSymbols text) = true := by
  induction text using List.reverseRecOn with
  | nil => exact SymMap.wf_nil
  | append_singleton text c ih =>
    rw [countSymbols_append_singleton, countSymbol]
    split <;> exact SymMap.wf_insert _ _ _ ih

/-- The table at a symbol: its count in the text (modulo 2^32), or no entry. -/
theorem get?_countSymbols (text : List Symbol) :
    ∀ c, SymMap.get? c (countSymbols text) = if c ∈ text then some (BitVec.ofNat 32 (text.count c)) else none := by
  induction text using List.reverseRecOn with
  | nil => simp [countSymbols, SymMap.get?]
  | append_singleton text x ih =>
    intro c
    rw [countSymbols_append_singleton, countSymbol]
    by_cases hx : x ∈ text
    · simp only [ih x, hx, if_true, SymMap.get?_insert, List.mem_append, List.mem_singleton, List.count_append]
      by_cases hc : x = c
      · subst hc
        simp [BitVec.ofNat_add]
      · simp [hc, Ne.symm hc, ih c]
    · simp only [ih x, hx, if_false, SymMap.get?_insert, List.mem_append, List.mem_singleton, List.count_append]
      by_cases hc : x = c
      · subst hc
        simp [List.count_eq_zero_of_not_mem hx]
      · simp [hc, Ne.symm hc, ih c]

theorem mem_keys_countSymbols (text : List Symbol) (c : Symbol) :
    c ∈ (countSymbols text).map Prod.fst ↔ c ∈ text := by
  have h := get?_countSymbols text c
  by_cases hc : c ∈ text
  · rw [if_pos hc] at h
    simp only [hc, iff_true]
    exact List.mem_map_of_mem (SymMap.mem_of_get? h)
  · rw [if_neg hc] at h
    simp only [hc, iff_false]
    exact (SymMap.get?_eq_none c _).mp h

theorem keys_countSymbols_perm (text : List Symbol) : ((countSymbols text).map Prod.fst).Perm text.dedup :=
  (List.perm_ext_iff_of_nodup (SymMap.wf_keys_nodup _ (wf_countSymbols text)) (List.nodup_dedup _)).mpr fun c => by
    rw [mem_keys_countSymbols, List.mem_dedup]

/-- One key per distinct symbol. -/
theorem length_countSymbols (text : List Symbol) : (countSymbols text).length = text.dedup.length := by
  have := (keys_countSymbols_perm text).length_eq
  simpa using this

end Sys2Proof.Machine
end

