-- ==== Sys2Proof/Laws/PerInstr.lean ====
section
/-! SUPPORT. What is said of every command as syntax: its word is of format C, its `op` is not 0 (30_encoding.md R70, R72), and the table
decoder reads the command back from it. -/

namespace Sys2Proof.Laws.FormatC

/-- The word of a command keeps the field `zero` at 0 and `op` away from 0, and the table decoder gives the command. -/
def Statement (i : Instr) : Prop :=
  i.wf = true ∧ formatC (encode i) = true ∧ opField (encode i) ≠ 0#8 ∧ decodeTableWord 32 (encode i).toNat = some i

theorem clear : Statement .clear := by unfold Statement; decide
theorem analyze : Statement .analyze := by unfold Statement; decide
theorem build : Statement .build := by unfold Statement; decide
theorem tser : Statement .tser := by unfold Statement; decide
theorem tdes : Statement .tdes := by unfold Statement; decide
theorem gencodes : Statement .gencodes := by unfold Statement; decide
theorem buildtxt : Statement .buildtxt := by unfold Statement; decide
theorem mapbits : Statement .mapbits := by unfold Statement; decide
theorem pack : Statement .pack := by unfold Statement; decide
theorem assemble : Statement .assemble := by unfold Statement; decide
theorem encode : Statement .encode := by unfold Statement; decide
theorem parse : Statement .parse := by unfold Statement; decide
theorem unpack : Statement .unpack := by unfold Statement; decide
theorem decode : Statement .decode := by unfold Statement; decide

end Sys2Proof.Laws.FormatC
end

