-- ==== Sys2Proof/Laws/TreeBuilder.lean ====
section
/-! SUPPORT. What the queue of BUILD does (41_tree_builder.md R120), for any tie-break. -/

namespace Sys2Proof.Machine

variable {before : QNode → QNode → Bool}

/-- An extraction takes one element out and keeps the rest. -/
theorem takeLeast_perm {q rest : List QNode} {m : QNode} (h : takeLeast before q = some (m, rest)) :
    q.Perm (m :: rest) := by
  induction q generalizing m rest with
  | nil => cases h
  | cons x q ih =>
    simp only [takeLeast] at h
    cases hq : takeLeast before q with
    | none =>
      rw [hq] at h
      cases q with
      | nil => cases h; exact List.Perm.refl _
      | cons y q =>
        simp only [takeLeast] at hq
        split at hq
        · cases hq
        · split at hq <;> cases hq
    | some mr =>
      obtain ⟨m', rest'⟩ := mr
      rw [hq] at h
      dsimp only at h
      have hp := ih hq
      split at h
      · cases h; exact (hp.cons x).trans (List.Perm.swap _ _ _)
      · cases h; exact hp.cons x

theorem takeLeast_length {q rest : List QNode} {m : QNode} (h : takeLeast before q = some (m, rest)) :
    q.length = rest.length + 1 := by simpa using (takeLeast_perm h).length_eq

theorem takeLeast_none {q : List QNode} : takeLeast before q = none ↔ q = [] := by
  cases q with
  | nil => simp [takeLeast]
  | cons x q =>
    simp only [takeLeast, reduceCtorEq, iff_false]
    split
    · simp
    · split <;> simp

@[simp] theorem HuffTree.freq_node (f : Count) (s : Option Symbol) (l r : HuffTree) :
    HuffTree.freq (.node f s l r) = f := rfl

theorem HuffTree.isLeaf_eq_true {t : HuffTree} : t.isLeaf = true ↔ ∃ f s, t = .node f s .absent .absent := by
  constructor
  · intro h
    unfold HuffTree.isLeaf at h
    split at h
    · exact ⟨_, _, rfl⟩
    · cases h
  · rintro ⟨f, s, rfl⟩; rfl

/-- A node with a left child is no leaf. -/
theorem HuffTree.isLeaf_of_left {f : Count} {s : Option Symbol} {l r : HuffTree} (h : l ≠ .absent) :
    HuffTree.isLeaf (.node f s l r) = false := by
  cases l with
  | absent => exact absurd rfl h
  | node => rfl

/-- A node with a right child is no leaf. -/
theorem HuffTree.isLeaf_of_right {f : Count} {s : Option Symbol} {l r : HuffTree} (h : r ≠ .absent) :
    HuffTree.isLeaf (.node f s l r) = false := by
  cases r with
  | absent => exact absurd rfl h
  | node => cases l <;> rfl

theorem HuffTree.Full.ne_absent {t : HuffTree} (h : t.Full) : t ≠ .absent := by
  rintro rfl; exact h

end Sys2Proof.Machine
end

