-- ==== Sys2Proof/Tests/Slice0.lean ====
section
/-! SUPPORT. Tests of one step each, their expected results from spec/95_test_vectors.md and the rules' own examples; then, for every
obligation with hypotheses, a witness that meets them, each clause at a boundary value where its range has one. -/

namespace Sys2Proof.Tests

open Sys2Proof.Machine

-- One theorem is checked after the other, so that their memory does not add up.
set_option Elab.async false

/-! ### Helpers -/

/-- The command answers a next state of which `p` holds. -/
def check (i : Instr) (s : State) (p : State → Bool) : Bool :=
  match exec i s with
  | .next t => p t
  | _ => false

theorem of_check {i : Instr} {s : State} {p : State → Bool} (h : check i s p = true) :
    ∃ t, exec i s = .next t ∧ p t = true := by
  unfold check at h
  split at h
  · exact ⟨_, by assumption, h⟩
  · cases h

/-- The step answers a next state of which `p` holds. -/
def checkStep (s : State) (p : State → Bool) : Bool :=
  match step s with
  | .next t => p t
  | _ => false

/-- The reset state with a text loaded. -/
def withText (t : String) : State := { State.reset with txi := t.toList }

/-- ASCII bytes, with `<` for the opening brace, `>` for the closing brace and `'` for the double quote. -/
def ascii (t : String) : List Byte :=
  t.toByteArray.data.toList.map fun u =>
    if u.toNat = 0x3C then 0x7B#8 else if u.toNat = 0x3E then 0x7D#8 else if u.toNat = 0x27 then 0x22#8 else u.toBitVec

/-- A bit-string from its digits. -/
def bits (t : String) : BitStr := t.toList.map fun c => c == '1'

/-- A leaf. -/
def leaf (f : Nat) (c : Char) : HuffTree := .node (BitVec.ofNat 32 f) (some c) .absent .absent

/-- An internal node. -/
def fork (f : Nat) (l r : HuffTree) : HuffTree := .node (BitVec.ofNat 32 f) none l r

/-- 95, `hdr(pad, olen, tlen)`, for field values below 65536. -/
def hdr (pad olen tlen : Nat) : List Byte :=
  [0x48#8, 0x55#8, 0x46#8, 0x46#8, 1#8, BitVec.ofNat 8 pad, 0#8, 0#8, BitVec.ofNat 8 (olen / 256), BitVec.ofNat 8 olen, 0#8, 0#8,
    BitVec.ofNat 8 (tlen / 256), BitVec.ofNat 8 tlen]

/-- 95, `T_aaaa`. -/
def textAaaa : List Byte :=
  ascii "<'frequency':4,'symbol':null,'isLeaf':false,'left':<'frequency':4,'symbol':'a','isLeaf':true>>"

/-- 95, `T_aaabbc`. -/
def textAaabbc : List Byte :=
  ascii "<'frequency':6,'symbol':null,'isLeaf':false,'left':<'frequency':3,'symbol':'a','isLeaf':true>," ++
  ascii "'right':<'frequency':3,'symbol':null,'isLeaf':false,'left':<'frequency':1,'symbol':'c','isLeaf':true>," ++
  ascii "'right':<'frequency':2,'symbol':'b','isLeaf':true>>>"

/-- 41 R120's example tree. -/
def treeAaabbc : HuffTree := fork 6 (leaf 3 'a') (fork 3 (leaf 1 'c') (leaf 2 'b'))

/-- 41 R120's degenerate tree for "aaaa". -/
def treeAaaa : HuffTree := fork 4 (leaf 4 'a') .absent

/-! ### Well-formedness: one ill-formed term for each check -/

theorem test_wf_every_command : (Instr.wf .clear && Instr.wf .decode) = true := by decide
theorem test_formatC_refuses_bit_8 : formatC 0x0000014F#32 = false := by decide
theorem test_formatC_refuses_bit_31 : formatC 0x80000010#32 = false := by decide
theorem test_config_wf_upper : Config.upper.wf = true := by decide
theorem test_config_refuses_txtMax : Config.wf { Config.upper with txtMax := 4294967296 } = false := by decide
theorem test_config_refuses_bytMax : Config.wf { Config.upper with bytMax := 4294967296 } = false := by decide
theorem test_config_refuses_bitMax : Config.wf { Config.upper with bitMax := 4294967296 } = false := by decide
theorem test_config_refuses_symsMax : Config.wf { Config.upper with symsMax := 1112065 } = false := by decide
theorem test_map_wf_refuses_descending : SymMap.wf [('b', 1#32), ('a', 1#32)] = false := by decide
theorem test_map_wf_refuses_repeated_key : SymMap.wf [('a', 1#32), ('a', 2#32)] = false := by decide

/-! ### Decoding: words written out bit by bit from 30_encoding.md R70 and R71, and 95 section 2.1 -/

theorem test_decode_control : decode 0b00000000000000000000000000000001#32 = .ok .clear := by rfl
theorem test_decode_freq : decode 0b00000000000000000000000000010000#32 = .ok .analyze := by rfl
theorem test_decode_tree : decode 0b00000000000000000000000000100010#32 = .ok .tdes := by rfl
theorem test_decode_codes : decode 0b00000000000000000000000000110000#32 = .ok .gencodes := by rfl
theorem test_decode_encoder : decode 0b00000000000000000000000001001111#32 = .ok .encode := by rfl
theorem test_decode_decoder : decode 0b00000000000000000000000001011111#32 = .ok .decode := by rfl
theorem test_decode_refuses_zero : decode 0#32 = .error .opUnlisted := by rfl
theorem test_decode_refuses_unlisted : [0x02#32, 0x11#32, 0x23#32, 0x44#32, 0x52#32, 0xFF#32].map decode =
    List.replicate 6 (.error .opUnlisted) := by rfl
theorem test_decode_refuses_high_bits : [0x0000014F#32, 0x80000010#32, 0xFFFFFFFF#32].map decode =
    List.replicate 3 (.error .zeroFieldSet) := by rfl
theorem test_table_word : (decodeTableWord 32 0x5F, decodeTableWord 32 0, decodeTableWord 40 0x10000005F) =
    (some .decode, none, none) := by rfl

/-! ### Data operands (95 sections 2.2, 2.3) -/

theorem test_be32 : be32Bytes 764#32 = [0#8, 0#8, 2#8, 0xFC#8] ∧ be32 0#8 0#8 1#8 0x5F#8 = 351#32 := by decide
theorem test_bits : packBytes (bits "1000000000000001") = [0x80#8, 1#8] ∧ byteBits 0xA5#8 = bits "10100101" := by decide +kernel
theorem test_utf8 : [0x7F, 0x80, 0x7FF, 0x800, 0xD7FF, 0xE000, 0xFFFF, 0x10000, 0x10FFFF].map (fun n => utf8 (Char.ofNat n)) =
    [[0x7F#8], [0xC2#8, 0x80#8], [0xDF#8, 0xBF#8], [0xE0#8, 0xA0#8, 0x80#8], [0xED#8, 0x9F#8, 0xBF#8], [0xEE#8, 0x80#8, 0x80#8],
      [0xEF#8, 0xBF#8, 0xBF#8], [0xF0#8, 0x90#8, 0x80#8, 0x80#8], [0xF4#8, 0x8F#8, 0xBF#8, 0xBF#8]] := by decide +kernel
theorem test_utf8_strict : [[0xC0#8, 0x80#8], [0xED#8, 0xA0#8, 0x80#8], [0xF4#8, 0x90#8, 0x80#8, 0x80#8], [0x80#8], [0xE2#8, 0x82#8],
    [0xF5#8, 0x80#8, 0x80#8, 0x80#8]].map utf8Decode = List.replicate 6 none := by decide +kernel
theorem test_escapes : [0x22, 0x5C, 0x0A, 0x1F].map (fun n => esc (Char.ofNat n)) =
    [[0x5C#8, 0x22#8], [0x5C#8, 0x5C#8], ascii "\\u000a", ascii "\\u001f"] := by decide +kernel

/-! ### One step per command -/

/-- 45 R190: CLEAR after a failed command clears the error. -/
theorem test_clear_clears_error : check .clear { withText "aaabbc" with err := true, errcode := 7#32, hdrOlen := 6#32 }
    (fun t => t == State.reset) = true := by decide +kernel
/-- 95 section 2.4, row 5. -/
theorem test_analyze_symbols_exact : check .analyze (withText "aA a")
    (fun t => t.ft == [(' ', 1#32), ('A', 1#32), ('a', 2#32)] && !t.err) = true := by decide +kernel
/-- 40 R110: more than SYMS_MAX distinct symbols. -/
theorem test_analyze_capacity : check .analyze { withText "ab" with cfg := { Config.upper with symsMax := 1 }, ft := [('z', 1#32)] }
    (fun t => t.ft == [] && t.errcode == 11#32) = true := by decide +kernel
/-- 95 section 2.5, the row of "mississippi": the tie-break at work. -/
theorem test_build_tie_break : check .build { State.reset with ft := [('i', 4#32), ('m', 1#32), ('p', 2#32), ('s', 4#32)] }
    (fun t => t.tree == fork 11 (leaf 4 's') (fork 7 (fork 3 (leaf 1 'm') (leaf 2 'p')) (leaf 4 'i'))) = true := by decide +kernel
/-- 95 section 2.5: two counts of 2^31. -/
theorem test_build_overflow : check .build { State.reset with ft := [('a', 2147483648#32), ('b', 2147483648#32)], tree := leaf 1 'z' }
    (fun t => t.tree == .absent && t.errcode == 12#32) = true := by decide +kernel
/-- 95 section 2.6: `T_aaaa`, an absent child giving no member, and `T_aaabbc`. -/
theorem test_tser_texts : check .tser { State.reset with tree := treeAaaa } (fun t => t.ser == textAaaa) = true ∧
    check .tser { State.reset with tree := treeAaabbc } (fun t => t.ser == textAaabbc) = true := by decide +kernel
/-- 95 section 2.6: no tree. -/
theorem test_tser_none : check .tser State.reset (fun t => t.ser == [0x7B#8, 0x7D#8]) = true := by decide +kernel
/-- 95 section 2.6: flags ignored, only a right child, a symbol on an internal node, the top frequency. -/
theorem test_tdes_accepts :
    [(ascii "<'frequency':2,'symbol':'q','isLeaf':true,'right':<'frequency':1,'symbol':'b','isLeaf':false>>",
        HuffTree.node 2#32 (some 'q') .absent (leaf 1 'b')),
      (ascii "<'frequency':4294967295,'symbol':'\\u000a','isLeaf':true>", leaf 4294967295 '\n')].all (fun x =>
        check .tdes { State.reset with ser := x.1 } (fun t => t.tree == x.2 && !t.err)) = true := by decide +kernel
/-- 95 section 2.6, the texts TDES rejects. -/
theorem test_tdes_rejects :
    [ascii "", ascii "<'frequency':1,'symbol':'a', 'isLeaf':true>", ascii "<'symbol':'a','frequency':1,'isLeaf':true>",
      ascii "<'frequency':1,'symbol':'a'>", ascii "<'frequency':01,'symbol':'a','isLeaf':true>",
      ascii "<'frequency':4294967296,'symbol':'a','isLeaf':true>", ascii "<'frequency':1,'symbol':'\\n','isLeaf':true>",
      ascii "<'frequency':1,'symbol':'\\u000A','isLeaf':true>", ascii "<'frequency':1,'symbol':'\\u0041','isLeaf':true>",
      ascii "<'frequency':1,'symbol':'\n','isLeaf':true>", ascii "<'frequency':1,'symbol':'','isLeaf':true>",
      ascii "<'frequency':1,'symbol':'ab','isLeaf':true>", ascii "<'frequency':1,'symbol':'a','isLeaf':true>x",
      ascii "<'frequency':1,'symbol':null,'isLeaf':false,'left':<>>", ascii "<'frequency':1,'symbol':'a','isLeaf':1>"].all (fun b =>
        check .tdes { State.reset with ser := b } (fun t => t.tree == .absent && t.errcode == 7#32)) = true := by decide +kernel
/-- 95 section 2.5: the codes of "aaabbc". -/
theorem test_gencodes_paths : check .gencodes { State.reset with tree := treeAaabbc }
    (fun t => t.ct == [('a', bits "0"), ('b', bits "11"), ('c', bits "10")]) = true := by decide +kernel
/-- 95 section 2.5: the last leaf wins; a leaf that is the root has the code "0". -/
theorem test_gencodes_odd_trees : [(fork 2 (leaf 1 'a') (leaf 1 'a'), bits "1"), (leaf 4 'a', bits "0")].all (fun x =>
    check .gencodes { State.reset with tree := x.1 } (fun t => t.ct == [('a', x.2)])) = true := by decide +kernel
/-- 43 R150's example. -/
theorem test_buildtxt_example : check .buildtxt { withText "aaabbc" with bit := [true], ser := [1#8] } (fun t =>
    t.ft == [('a', 3#32), ('b', 2#32), ('c', 1#32)] && t.tree == treeAaabbc && t.ct.length == 3 && t.bit == [] && t.ser == []) = true := by
  decide +kernel
/-- 43 R150: the empty text. -/
theorem test_buildtxt_empty : check .buildtxt State.reset (fun t => t == State.reset) = true := by decide +kernel
/-- 95 section 2.7. -/
theorem test_mapbits_order : check .mapbits { withText "cab" with ct := [('a', bits "0"), ('b', bits "11"), ('c', bits "10")] }
    (fun t => t.bit == bits "10011") = true := by decide +kernel
/-- 95 section 2.7: a symbol without a code. -/
theorem test_mapbits_no_code : check .mapbits { withText "abz" with ct := [('a', bits "0"), ('b', bits "1")], bit := [true] }
    (fun t => t.bit == [] && t.errcode == 10#32) = true := by decide +kernel
/-- 95 section 2.7, PACK's rows. -/
theorem test_pack_rows :
    [("", [], 0), ("1111111", [0xFE#8], 1), ("10101010", [0xAA#8], 0), ("101010101", [0xAA#8, 0x80#8], 7), ("10110", [0xB0#8], 3)].all
      (fun x => check .pack { State.reset with bit := bits x.1 }
        (fun t => t.pay == x.2.1 && t.hdrPad == BitVec.ofNat 32 x.2.2)) = true := by decide +kernel
/-- 43 R153: the header fields in place, with a short tree text. -/
theorem test_assemble_layout : check .assemble { withText "aaabbc" with hdrPad := 7#32, ser := [0xC0#8], pay := [0x1F#8, 0#8] }
    (fun t => t.byo == hdr 7 6 1 ++ [0xC0#8, 0x1F#8, 0#8] && t.hdrOlen == 6#32 && t.hdrTlen == 1#32 && t.hdrVer == 1#32) = true := by
  decide +kernel
/-- 43 R153: one byte more than BYT_MAX. -/
theorem test_assemble_capacity : check .assemble { withText "a" with cfg := { Config.upper with bytMax := 14 }, pay := [0#8], hdrPad := 7#32 }
    (fun t => t.byo == [] && t.errcode == 11#32 && t.hdrPad == 7#32) = true := by decide +kernel
/-- 95 section 2.8: "aaaa" in full. -/
theorem test_encode_aaaa : check .encode (withText "aaaa") (fun t => t.byo == hdr 4 4 94 ++ ser treeAaaa ++ [0#8]) = true := by decide +kernel
/-- 95 section 2.8, the last row: symbols counted, not bytes. -/
theorem test_encode_utf8 : check .encode { State.reset with txi := [0xE9, 0x20AC, 0x1F600, 0xE9].map Char.ofNat } (fun t =>
    t.byo.take 14 == hdr 2 4 254 && t.byo.length == 269 && t.pay == [0x58#8] && t.bit == bits "010110") = true := by decide +kernel
/-- 95 section 2.9: the empty-file container. -/
theorem test_parse_empty_file : check .parse { State.reset with byi := hdr 0 0 2 ++ [0x7B#8, 0x7D#8] } (fun t =>
    t.ser == [0x7B#8, 0x7D#8] && t.pay == [] && t.hdrVer == 1#32 && t.hdrTlen == 2#32 && !t.err) = true := by decide +kernel
/-- 95 section 2.9, the failing rows: length, magic, version, padding, no wrap-around, and the order of the checks. -/
theorem test_parse_errors :
    [([], 1), ((hdr 7 6 0).take 13, 1), (List.replicate 14 0#8, 2), (0x68#8 :: (hdr 7 6 0).tail, 2), ((hdr 7 6 0).set 4 2#8, 3),
      (hdr 8 6 0, 6), ((hdr 8 6 0).set 4 2#8, 3), (hdr 7 6 1, 4), ((hdr 7 6 0).take 10 ++ List.replicate 4 0xFF#8, 4),
      ((hdr 8 6 0).take 10 ++ List.replicate 4 0xFF#8, 6)].all (fun x =>
        check .parse { State.reset with byi := x.1 } (fun t => t.errcode == BitVec.ofNat 32 x.2 && t.hdrVer == 0#32 && t.ser == [])) = true := by
  decide +kernel
/-- 44 R172's example, and its row without a tree. -/
theorem test_unpack_example : [(treeAaabbc, "aaabbc"), (.absent, "")].all (fun x =>
    check .unpack { State.reset with pay := [0x1F#8, 0#8], hdrPad := 7#32, hdrOlen := 6#32, tree := x.1 }
      (fun t => t.bit == bits "000111110" && t.txo == x.2.toList && !t.err)) = true := by decide +kernel
/-- 95 section 2.10, rows 20, 26, 29: the bits end, an absent child, a leaf without a symbol. -/
theorem test_unpack_errors :
    [(treeAaabbc, [0x1F#8, 0#8], 14, 8), (treeAaaa, [0x10#8], 4, 5),
      (fork 2 (leaf 1 'a') (.node 1#32 none .absent .absent), [0x40#8], 2, 9)].all (fun x =>
        check .unpack { State.reset with pay := x.2.1, hdrOlen := BitVec.ofNat 32 x.2.2.1, tree := x.1 }
          (fun t => t.bit == [] && t.txo == [] && t.errcode == BitVec.ofNat 32 x.2.2.2)) = true := by decide +kernel
/-- 95 section 2.10, rows 1, 15, 18, 24, 12, 14. -/
theorem test_decode_texts :
    [(hdr 7 6 248 ++ ser treeAaabbc ++ [0x1F#8, 0#8], "aaabbc"), (hdr 7 5 248 ++ ser treeAaabbc ++ [0x1F#8, 0#8], "aaabb"),
      (hdr 0 7 248 ++ ser treeAaabbc ++ [0x1F#8, 0#8], "aaabbca"), (hdr 7 6 248 ++ ser treeAaabbc ++ [0x1F#8, 0#8, 0x12#8, 0x34#8], "aaabbc"),
      (hdr 0 0 3 ++ ascii "xyz" ++ [0xFF#8], ""), (hdr 0 5 2 ++ ascii "<>" ++ [0xAA#8], "")].all (fun x =>
        check .decode { State.reset with byi := x.1 } (fun t => t.txo == x.2.toList && !t.err)) = true := by decide +kernel
/-- 95 section 2.10, rows 9, 10, 13, 17, 26. -/
theorem test_decode_errors :
    [(hdr 7 6 250 ++ ser treeAaabbc ++ [0x1F#8, 0#8], 7), (hdr 7 6 0, 7), (hdr 0 0 3 ++ ascii "xy", 4),
      (hdr 7 7 248 ++ ser treeAaabbc ++ [0x1F#8, 0#8], 8), (hdr 4 4 94 ++ ser treeAaaa ++ [0x10#8], 5)].all (fun x =>
        check .decode { State.reset with byi := x.1 }
          (fun t => t.errcode == BitVec.ofNat 32 x.2 && t.txo == [] && t.tree == .absent && t.hdrVer == 0#32)) = true := by decide +kernel

/-! ### The step, the host's side, and the reporting functions -/

/-- 70 R253: after reset `CMD DECODE` raises E_SHORT. -/
theorem test_step_first_command : checkStep (State.reset.withFetchWord 32 0x5F) (fun t => t.errcode == 1#32 && t.host == []) = true := by
  decide +kernel
/-- 45 R191: an illegal word leaves a result in place. -/
theorem test_step_illegal_word : checkStep { withText "ab" with host := [.wrcsr 1 0x14F#32], byo := [1#8] }
    (fun t => t.err && t.errcode == 13#32 && t.byo == [1#8] && t.txi == ['a', 'b']) = true := by decide +kernel
/-- 10 R31, R34: STATUS with both flags set, ID, and a number above 16. -/
theorem test_csr_values : [(2, 3#32), (0, 0x48554601#32), (8, 2#32), (17, 0#32)].all (fun x =>
    checkStep { withText "ab" with host := [.rdcsr x.1], tree := leaf 1 'a', err := true, errcode := 7#32 }
      (fun t => t.reply == some (.word x.2))) = true := by decide +kernel
/-- 20 R61, 10 R21: a table loaded in any order of keys is the same table. -/
theorem test_load_table_order : checkStep { State.reset with host := [.load .ft (.counts [('b', 1#32), ('a', 8#32)])] }
    (fun t => t.ft == [('a', 8#32), ('b', 1#32)]) = true := by decide +kernel
/-- 48 R200's example, both orders. -/
theorem test_sorted_frequencies :
    ((sortedFrequencies id [('a', 3#32), ('b', 2#32), ('c', 1#32)] .frequency).map fun r => (r.1, r.2.1)) = [('a', 3), ('b', 2), ('c', 1)] ∧
    ((sortedFrequencies id [('a', 1#32), ('b', 2#32), ('c', 2#32)] .frequency).map Prod.fst) = ['b', 'c', 'a'] := by decide +kernel
/-- 48 R201. -/
theorem test_display_label : [' ', '\n', '\t', '\r', Char.ofNat 0, 'x'].map displayLabel =
    ["SPACE", "NEWLINE", "TAB", "RETURN", "NULL", "x"] := by decide +kernel
/-- 48 R202: no code gives the empty string, a total of 0 the percentage 0. -/
theorem test_format_analysis : ((formatAnalysis id [('a', 0#32), (' ', 0#32)] [('a', [true, false])]).map fun r =>
    (r.label, r.count, r.code)) = [("SPACE", 0, ""), ("a", 0, "10")] := by decide +kernel
/-- 48 R206's example: 16 payload bits against 72. -/
theorem test_ratio : (encoderStatistics ⟨List.length, true, false, id⟩ "aaaaaaaab".toList
    (hdr 7 9 145 ++ List.replicate 145 0#8 ++ [0xFF#8, 0#8])).ratio = 200 / 9 := by decide +kernel

/-! ### Witnesses: states and operands that meet each obligation's hypotheses -/

/-- An instance in which one symbol of text, two bytes, three bits, one table entry, two nodes and one level fit. -/
def small : Config := ⟨1, 2, 3, 1, 2, 1⟩

theorem test_witness_IllegalWordRaises : ({ State.reset with host := [.wrcsr 1 0x14F#32] } : State).host = .wrcsr 1 0x14F#32 :: [] ∧
    ∀ i : Instr, 0x14F#32 ≠ encode i := ⟨rfl, by intro i; cases i <;> decide⟩
theorem test_witness_StepRunsPendingCommand : (State.reset.withFetchWord 32 0x10).host = .wrcsr 1 (encode .analyze) :: [] := by decide
theorem test_witness_IdleStepKeepsState : State.reset.host = [] := rfl
theorem test_witness_HostLoadReplacesOneStore :
    let s : HostTxn → State := fun x => { State.resetOf small with host := [x] }
    ((s (.load .txi (.symbols ['a']))).host = .load .txi (.symbols ['a']) :: [] ∧ ['a'].length ≤ small.txtMax) ∧
    ((s (.load .byi (.bytes [1#8, 2#8]))).host = .load .byi (.bytes [1#8, 2#8]) :: [] ∧ [1#8, 2#8].length ≤ small.bytMax) ∧
    ((s (.load .ser (.bytes [1#8, 2#8]))).host = .load .ser (.bytes [1#8, 2#8]) :: [] ∧ [1#8, 2#8].length ≤ small.bytMax) ∧
    ((s (.load .pay (.bytes [1#8, 2#8]))).host = .load .pay (.bytes [1#8, 2#8]) :: [] ∧ [1#8, 2#8].length ≤ small.bytMax) ∧
    ((s (.load .bit (.bits [true, false, true]))).host = .load .bit (.bits [true, false, true]) :: [] ∧
      [true, false, true].length ≤ small.bitMax) := by decide
theorem test_witness_HostLoadFrequencyTable :
    ({ State.resetOf { small with symsMax := 2 } with host := [.load .ft (.counts [('b', 1#32), ('a', 2#32)])] } : State).host =
      .load .ft (.counts [('b', 1#32), ('a', 2#32)]) :: [] ∧
    (([('b', 1#32), ('a', 2#32)] : List (Symbol × Count)).map Prod.fst).Nodup ∧ 2 ≤ 2 := by decide
theorem test_witness_ForbiddenHostAccessRefused :
    let s : HostTxn → State := fun x => { State.resetOf small with host := [x] }
    ((s (.load .ct (.codes []))).host = .load .ct (.codes []) :: [] ∧ Store.ct ∈ [Store.txo, .byo, .tree, .ct]) ∧
    ((s (.load .txi (.bytes []))).host = .load .txi (.bytes []) :: [] ∧ Store.txi ∈ [Store.txi, .byi, .ser, .pay, .bit, .ft] ∧
      (HostValue.bytes []).kind ≠ Store.txi.kind) ∧
    ((s (.load .txi (.symbols ['a', 'b']))).host = .load .txi (.symbols ['a', 'b']) :: [] ∧ small.txtMax < ['a', 'b'].length) ∧
    ((s (.load .pay (.bytes [1#8, 2#8, 3#8]))).host = .load .pay (.bytes [1#8, 2#8, 3#8]) :: [] ∧
      Store.pay ∈ [Store.byi, .ser, .pay] ∧ small.bytMax < [1#8, 2#8, 3#8].length) ∧
    ((s (.load .bit (.bits (bits "1010")))).host = .load .bit (.bits (bits "1010")) :: [] ∧ small.bitMax < (bits "1010").length) ∧
    ((s (.load .ft (.counts [('b', 1#32), ('a', 2#32)]))).host = .load .ft (.counts [('b', 1#32), ('a', 2#32)]) :: [] ∧
      ['b', 'a'].Nodup ∧ small.symsMax < [('b', 1#32), ('a', 2#32)].length) ∧
    ((s (.load .ft (.counts [('a', 1#32), ('a', 2#32)]))).host = .load .ft (.counts [('a', 1#32), ('a', 2#32)]) :: [] ∧
      ¬ ['a', 'a'].Nodup) ∧
    (s (.read .tree)).host = .read .tree :: [] := by decide +kernel
theorem test_witness_HostReadReturnsStore :
    ({ State.reset with host := [.read .byo] } : State).host = .read .byo :: [] ∧ Store.byo ≠ .tree := by decide
theorem test_witness_CsrReadValues : ({ State.reset with host := [.rdcsr 17] } : State).host = .rdcsr 17 :: [] := rfl
theorem test_witness_CsrWriteIgnored :
    ({ State.reset with host := [.wrcsr 2 7#32] } : State).host = .wrcsr 2 7#32 :: [] ∧ 2 ≠ 1 := by decide
theorem test_witness_ResetEmptiesEverything : ({ withText "a" with host := [.reset] } : State).host = .reset :: [] := rfl
theorem test_witness_AnalyzeCountsSymbols :
    ['a', 'b'].length < 4294967296 ∧ ['a', 'b'].dedup.length ≤ { small with symsMax := 2 }.symsMax ∧
    small.symsMax < ['a', 'b'].dedup.length := by decide
theorem test_witness_FrequencyConservation : (withText "aab").txi.length < 4294967296 ∧
    [Instr.analyze, .buildtxt, .encode].all (fun i => check i (withText "aab") fun t => !t.err) = true := by decide +kernel
theorem test_witness_BuildSmallTables :
    (State.resetOf small).ft = [] ∧
    (({ State.resetOf small with ft := [('a', 0#32)] } : State).ft = [('a', 0#32)] ∧ 2 ≤ small.nodeMax) ∧
    (({ State.resetOf { small with nodeMax := 3 } with ft := [('a', 4294967294#32), ('b', 1#32)] } : State).ft =
      [('a', 4294967294#32), ('b', 1#32)] ∧ 3 ≤ { small with nodeMax := 3 }.nodeMax ∧
      (4294967294#32).toNat + (1#32).toNat < 4294967296) := by decide
theorem test_witness_BuildMakesFullTree :
    let s : State := { State.resetOf { small with nodeMax := 3 } with ft := [('a', 0#32), ('b', 4294967295#32)] }
    2 ≤ s.ft.length ∧ 2 * s.ft.length - 1 ≤ s.cfg.nodeMax ∧ totalCount s.ft < 4294967296 := by decide
theorem test_witness_BuildErrors :
    let s : Nat → State := fun n => { State.resetOf { small with nodeMax := n } with ft := [('a', 1#32), ('b', 4294967295#32)] }
    2 ≤ (s 2).ft.length ∧ (s 2).cfg.nodeMax < 2 * (s 2).ft.length - 1 ∧
    2 * (s 3).ft.length - 1 ≤ (s 3).cfg.nodeMax ∧ 4294967296 ≤ totalCount (s 3).ft := by decide
theorem test_witness_QueueRemovesLeast :
    let q : List QNode := [⟨leaf 2 'a', 0⟩, ⟨leaf 1 'b', 1⟩]
    (q.map QNode.seq).Nodup ∧ takeLeast keyBefore q = some (⟨leaf 1 'b', 1⟩, [⟨leaf 2 'a', 0⟩]) := by decide

/-- A tie-break R121 admits and this hardware does not use: the younger element first. -/
def youngerFirst (x y : QNode) : Bool :=
  decide (x.tree.freq.toNat < y.tree.freq.toNat) ||
    (decide (x.tree.freq.toNat = y.tree.freq.toNat) && decide (y.seq < x.seq))
theorem test_witness_TieBreakKeepsWeight : Admissible youngerFirst ∧
    2 ≤ [('a', 1#32), ('b', 1#32), ('c', 1#32)].length ∧
    buildWith youngerFirst 5 [('a', 1#32), ('b', 1#32), ('c', 1#32)] =
      .ok (fork 3 (leaf 1 'a') (fork 2 (leaf 1 'c') (leaf 1 'b'))) := by
  refine ⟨⟨?_, ?_, ?_, ?_⟩, by decide⟩ <;> intros <;> simp_all [youngerFirst] <;> omega
theorem test_witness_TserWritesTreeText :
    let s : State := State.resetOf { small with depthMax := 0 }
    (s.tree.depth ≤ s.cfg.depthMax ∧ (ser s.tree).length ≤ s.cfg.bytMax) ∧
    (let t : State := { s with tree := treeAaaa }; t.cfg.depthMax < t.tree.depth) ∧
    (let t : State := { s with tree := leaf 4 'a' }; t.cfg.bytMax < (ser t.tree).length) := by decide +kernel
theorem test_witness_TdesReadsTreeText :
    let text : List Byte := txtFrequency ++ [0x34#8] ++ txtSymbol ++ symtext (some 'a') ++ txtIsLeaf ++ txtTrue ++ txtClose
    TreeText (leaf 4 'a') text ∧ (leaf 4 'a').nodes ≤ 1 ∧ (leaf 4 'a').depth ≤ 0 ∧ 0 < (leaf 4 'a').nodes ∧
    ∀ t : HuffTree, ¬ TreeText t [] := by
  refine ⟨.inr (.leaf (by unfold UintText; decide) (.inl rfl)), by decide, by decide, by decide, ?_⟩
  rintro t (⟨-, h⟩ | h)
  · exact absurd h (by decide)
  · generalize hb : ([] : List Byte) = b at h
    cases h <;> simp [txtFrequency] at hb
theorem test_witness_GencodesRecordsPaths :
    let s : Nat → Nat → State := fun d k => { State.resetOf { small with depthMax := d, symsMax := k } with tree := fork 2 (leaf 1 'a') (leaf 1 'b') }
    ((s 1 2).tree.depth ≤ (s 1 2).cfg.depthMax ∧ ((s 1 2).tree.leaves.map Prod.fst).dedup.length ≤ (s 1 2).cfg.symsMax) ∧
    (s 0 2).cfg.depthMax < (s 0 2).tree.depth ∧ (s 1 1).cfg.symsMax < ((s 1 1).tree.leaves.map Prod.fst).dedup.length := by decide
theorem test_witness_GencodesIgnoresFrequencies :
    (fork 2 (leaf 1 'a') (leaf 1 'b')).shape = (fork 9 (leaf 0 'a') (leaf 5 'b')).shape ∧
    [fork 2 (leaf 1 'a') (leaf 1 'b'), fork 9 (leaf 0 'a') (leaf 5 'b')].all (fun t =>
      check .gencodes { State.reset with tree := t } fun u => u.ct == [('a', [false]), ('b', [true])]) = true := by decide +kernel
theorem test_witness_GencodesPrefixFree : ∃ t, exec .gencodes { State.reset with tree := treeAaabbc } = .next t ∧ t.ct.length = 3 :=
  (of_check (p := fun t => decide (t.ct.length = 3)) (by decide +kernel)).imp fun _ h => ⟨h.1, by simpa using h.2⟩
theorem test_witness_GencodesCodeLengths : ∃ t, exec .gencodes { State.reset with tree := leaf 4 'a' } = .next t ∧ t.ct = [('a', [false])] :=
  (of_check (p := fun t => decide (t.ct = [('a', [false])])) (by decide +kernel)).imp fun _ h => ⟨h.1, by simpa using h.2⟩
theorem test_witness_BuildtxtBuildsWorkingState : let s : State := { State.resetOf small with txi := ['a'] }
    s.txi.length < 4294967296 ∧ s.txi.dedup.length ≤ s.cfg.symsMax ∧ 2 * s.txi.dedup.length ≤ s.cfg.nodeMax ∧
    s.txi.dedup.length ≤ s.cfg.depthMax := by decide
theorem test_witness_MapbitsConcatenatesCodes :
    let s : Nat → State := fun n => { State.resetOf { small with bitMax := n } with txi := ['a', 'b'], ct := [('a', [false]), ('b', [true, true])] }
    (∀ c ∈ (s 3).txi, (SymMap.get? c (s 3).ct).isSome = true) ∧
    ((s 3).txi.flatMap fun c => (SymMap.get? c (s 3).ct).getD []).length ≤ (s 3).cfg.bitMax ∧
    (s 2).cfg.bitMax < ((s 2).txi.flatMap fun c => (SymMap.get? c (s 2).ct).getD []).length ∧
    ∃ c ∈ ['z'], SymMap.get? c (s 3).ct = none :=
  ⟨List.forall_mem_cons.mpr ⟨rfl, List.forall_mem_singleton.mpr rfl⟩, by decide, by decide, 'z', by decide, rfl⟩
theorem test_witness_PackPadsAndGroups :
    let s : Nat → State := fun n => { State.resetOf { small with bytMax := n } with bit := bits "101010101" }
    7 = (8 - (s 2).bit.length % 8) % 8 ∧ ((s 2).bit.length + 7) / 8 ≤ (s 2).cfg.bytMax ∧
    (s 1).cfg.bytMax < ((s 1).bit.length + 7) / 8 := by decide +kernel
theorem test_witness_PackingInvertsUnpacking : (bits "1010101011110000").length % 8 = 0 := by decide +kernel
theorem test_witness_AssembleJoinsContainer :
    let s : Nat → State := fun n => { State.resetOf { small with bytMax := n } with ser := [1#8], pay := [2#8] }
    14 + (s 16).ser.length + (s 16).pay.length ≤ (s 16).cfg.bytMax ∧
    (s 15).cfg.bytMax < 14 + (s 15).ser.length + (s 15).pay.length := by decide
theorem test_witness_EncodeEmptyText :
    let s : State := State.resetOf { small with bytMax := 16 }; s.txi = [] ∧ 16 ≤ s.cfg.bytMax := by decide
theorem test_witness_EncodeCompletes :
    let s : State := { State.resetOf { small with bytMax := 149, bitMax := 1 } with txi := ['a'] }
    s.txi ≠ [] ∧ RoomFor s := by
  refine ⟨by decide, ⟨?_, ?_, ?_, ?_, ?_, ?_⟩⟩ <;> decide
theorem test_witness_EncodeEqualsStages : ∃ t, exec .encode (withText "ab") = .next t ∧ t.err = false :=
  (of_check (p := fun t => !t.err) (by decide +kernel)).imp fun _ h => ⟨h.1, by simpa using h.2⟩
theorem test_witness_MacrosForgetWorkingState :
    let s₁ : State := withText "ab"
    let s₂ : State := { withText "ab" with ft := [('z', 1#32)], tree := leaf 1 'z', err := true, errcode := 5#32 }
    s₁ ≠ s₂ ∧ s₁.txi = s₂.txi ∧ s₁.byi = s₂.byi ∧ s₁.cfg = s₂.cfg ∧ s₁.host = s₂.host ∧ s₁.reply = s₂.reply := by decide +kernel
theorem test_witness_ParseChecksInOrder :
    ∃ (at_ : Nat → Nat) (tlen : Nat), (∀ i, at_ i = ((hdr 7 6 258).getD i 0#8).toNat) ∧
      tlen = at_ 10 * 16777216 + at_ 11 * 65536 + at_ 12 * 256 + at_ 13 ∧ tlen = 258 :=
  ⟨fun i => ((hdr 7 6 258).getD i 0#8).toNat, 258, fun _ => rfl, by decide, rfl⟩
theorem test_witness_ParseRecoversContainer :
    let s : State := { State.reset with byi := hdr 7 6 1 ++ [0xC0#8, 0x1F#8] }
    s.byi = container 1#8 7#8 6#32 [0xC0#8] [0x1F#8] ∧ (7#8).toNat ≤ 7 ∧ [0xC0#8].length < 4294967296 := by decide
theorem test_witness_UnpackWalksPaths :
    let s : State := { State.resetOf { small with txtMax := 2, bitMax := 3 } with
      pay := [0x5F#8], hdrPad := 5#32, hdrOlen := 2#32, tree := fork 2 (leaf 1 'a') (leaf 1 'b') }
    let pairs : List (Symbol × BitStr) := [('a', [false]), ('b', [true])]
    s.tree.isLeaf = false ∧ (∀ x ∈ pairs, x ∈ s.tree.paths []) ∧ s.hdrOlen.toNat = pairs.length ∧
    (unpackBits s.pay).take (8 * s.pay.length - s.hdrPad.toNat) = pairs.flatMap Prod.snd ++ [false] ∧
    8 * s.pay.length - s.hdrPad.toNat ≤ s.cfg.bitMax ∧ pairs.length ≤ s.cfg.txtMax := by decide
theorem test_witness_UnpackNothingToWalk :
    let s : State := { State.resetOf { small with bitMax := 8 } with pay := [0xFF#8], hdrOlen := 3#32 }
    ((State.resetOf small).hdrOlen = 0#32 ∨ (State.resetOf small).tree = .absent) ∧
    (s.hdrOlen = 0#32 ∨ s.tree = .absent) ∧ 8 * s.pay.length - s.hdrPad.toNat ≤ s.cfg.bitMax := by decide
theorem test_witness_UnpackWalkErrors :
    let s : Nat → State := fun b => { State.resetOf { small with bitMax := 8 } with
      pay := [BitVec.ofNat 8 b], hdrPad := 5#32, hdrOlen := 2#32
      tree := fork 2 (leaf 1 'a') (fork 1 .absent (.node 1#32 none .absent .absent)) }
    let pairs : List (Symbol × BitStr) := [('a', [false])]
    (let t : State := { State.resetOf { small with bitMax := 7 } with pay := [0#8] }; t.cfg.bitMax < 8 * t.pay.length - t.hdrPad.toNat) ∧
    (∀ b ∈ [0x40, 0x60], (s b).tree ≠ .absent ∧ (∀ x ∈ pairs, x ∈ (s b).tree.paths [] ∧ x.2 ≠ []) ∧ pairs.length < (s b).hdrOlen.toNat ∧
      8 * (s b).pay.length - (s b).hdrPad.toNat ≤ (s b).cfg.bitMax) ∧
    (let t : State := { s 0x40 with hdrPad := 6#32 };
      (unpackBits t.pay).take (8 * t.pay.length - t.hdrPad.toNat) = pairs.flatMap Prod.snd ++ [true] ∧
      t.tree.descend [true] ≠ .absent ∧ (t.tree.descend [true]).isLeaf = false) ∧
    ((unpackBits (s 0x40).pay).take (8 * (s 0x40).pay.length - (s 0x40).hdrPad.toNat) = pairs.flatMap Prod.snd ++ ([true] ++ false :: []) ∧
      (s 0x40).tree.descend [true] ≠ .absent ∧ ((s 0x40).tree.descend [true]).isLeaf = false ∧
      (s 0x40).tree.descend ([true] ++ [false]) = .absent) ∧
    ((unpackBits (s 0x60).pay).take (8 * (s 0x60).pay.length - (s 0x60).hdrPad.toNat) = pairs.flatMap Prod.snd ++ ([true, true] ++ []) ∧
      ([true, true] : BitStr) ≠ [] ∧ ∃ f, (s 0x60).tree.descend [true, true] = .node f none .absent .absent) ∧
    (let two : List (Symbol × BitStr) := pairs ++ pairs;
      (∀ x ∈ two, x ∈ (s 0).tree.paths [] ∧ x.2 ≠ []) ∧ (s 0).cfg.txtMax < two.length ∧ (s 0).hdrOlen.toNat = two.length ∧
      (unpackBits (s 0).pay).take (8 * (s 0).pay.length - (s 0).hdrPad.toNat) = two.flatMap Prod.snd ++ [false]) := by
  exact ⟨by decide, by decide, by decide, by decide, ⟨by decide, by decide, 1#32, rfl⟩, by decide⟩
/-- A text of the degenerate tree whose `isLeaf` words contradict the children (30_encoding.md R88). -/
def textAaaaFlags : List Byte :=
  txtFrequency ++ [0x34#8] ++ txtSymbol ++ symtext none ++ txtIsLeaf ++ txtTrue ++
    (txtLeft ++ (txtFrequency ++ [0x34#8] ++ txtSymbol ++ symtext (some 'a') ++ txtIsLeaf ++ txtFalse ++ txtClose)) ++ txtClose
theorem textAaaaFlags_text : TreeText treeAaaa textAaaaFlags :=
  have four : UintText 4#32 [0x34#8] := by unfold UintText; decide
  .inr (.onlyLeft four (.inl rfl) (.leaf four (.inr rfl)))
theorem test_witness_DecodeReadsContainer :
    let tree : HuffTree := treeAaaa
    let seg : List Byte := textAaaaFlags
    let pairs : List (Symbol × BitStr) := List.replicate 4 ('a', [false])
    let s : State := { State.resetOf { small with nodeMax := 2, depthMax := 1, bitMax := 4, txtMax := 4 } with
      byi := hdr 4 4 94 ++ textAaaaFlags ++ [0x0F#8] }
    TreeText tree seg ∧ seg ≠ ser tree ∧
    s.byi = container 1#8 4#8 (BitVec.ofNat 32 pairs.length) seg [0x0F#8] ∧ (4#8).toNat ≤ 7 ∧
    seg.length < 4294967296 ∧ 0 < pairs.length ∧ pairs.length < 4294967296 ∧ tree.isLeaf = false ∧
    (∀ x ∈ pairs, x ∈ tree.paths []) ∧
    (unpackBits [0x0F#8]).take (8 * [0x0F#8].length - (4#8).toNat) = pairs.flatMap Prod.snd ++ [] ∧
    tree.nodes ≤ s.cfg.nodeMax ∧ tree.depth ≤ s.cfg.depthMax ∧ 8 * [0x0F#8].length - (4#8).toNat ≤ s.cfg.bitMax ∧
    pairs.length ≤ s.cfg.txtMax := ⟨textAaaaFlags_text, by decide +kernel⟩
theorem test_witness_DecodeEarlyEnds :
    (hdr 0 0 3 ++ [0x78#8, 0x79#8, 0x7A#8] ++ [0xFF#8] = container 1#8 0#8 0#32 [0x78#8, 0x79#8, 0x7A#8] [0xFF#8]) ∧
    (hdr 7 5 2 ++ [0x7B#8, 0x7D#8] = container 1#8 7#8 5#32 [0x7B#8, 0x7D#8] []) ∧ (7#8).toNat ≤ 7 := by decide
theorem test_witness_DecodeHeaderErrorsFirst :
    let tdesOf (byi : List Byte) (f : State → Bool) : Bool :=
      check .parse { State.reset with byi := byi } fun p => !p.err && p.hdrOlen != 0#32 && check .tdes p f
    let unpackOf (byi : List Byte) (f : State → Bool) : Bool :=
      tdesOf byi fun q => !q.err && q.tree.present && check .unpack q f
    check .parse State.reset (fun p => p.err) = true ∧
    tdesOf (hdr 0 1 1 ++ [0x78#8]) (fun q => q.err) = true ∧
    unpackOf (hdr 4 4 94 ++ ser treeAaaa ++ [0x10#8]) (fun u => u.err) = true ∧
    unpackOf (hdr 4 4 94 ++ ser treeAaaa ++ [0#8]) (fun u => !u.err) = true := by decide +kernel
theorem test_witness_TrailingBytesIgnored :
    let s : State := { State.resetOf { Config.upper with bitMax := 888 } with byi := hdr 4 4 94 ++ ser treeAaaa ++ [0#8] }
    (∃ t, exec .decode s = .next t ∧ t.err = false) ∧ 8 * (s.byi.length + [1#8, 2#8].length) ≤ s.cfg.bitMax :=
  ⟨(of_check (p := fun t => !t.err) (by decide +kernel)).imp fun _ h => ⟨h.1, by simpa using h.2⟩, by decide +kernel⟩

/-- A state with a text and nothing else. -/
def twoSame : State := { State.reset with txi := ['a', 'a'] }
theorem twoSame_inv : twoSame.Inv :=
  ⟨by decide, by decide, by decide, by decide, by decide, by decide, by decide, fun _ h => absurd h List.not_mem_nil,
    ⟨by decide, by decide, by decide, by decide, by decide, by decide, by decide, by decide, by decide, by decide⟩⟩
theorem twoSame_encode : ∃ t, exec .encode twoSame = .next t ∧ t.err = false :=
  (of_check (p := fun t => !t.err) (by decide +kernel)).imp fun _ h => ⟨h.1, by simpa using h.2⟩
theorem test_witness_EncodeDecodeRoundTrip : twoSame.Inv ∧ twoSame.txi ≠ [] ∧ ∃ t, exec .encode twoSame = .next t ∧ t.err = false :=
  ⟨twoSame_inv, by decide, twoSame_encode⟩
theorem test_witness_EmptyTextRoundTrip : State.reset.txi = [] ∧ ∃ t, exec .encode State.reset = .next t ∧ t.err = false :=
  ⟨rfl, (of_check (p := fun t => !t.err) (by decide +kernel)).imp fun _ h => ⟨h.1, by simpa using h.2⟩⟩
theorem test_witness_SingleSymbolRoundTrip : twoSame.Inv ∧ twoSame.txi = List.replicate (1 + 1) 'a' ∧
    ∃ t, exec .encode twoSame = .next t ∧ t.err = false := ⟨twoSame_inv, rfl, twoSame_encode⟩
theorem test_witness_CommandEndsAsErrorEntrySays : State.reset.txi.length < 4294967296 := by decide
theorem test_witness_ReissueRepeatsError : ∃ t, exec .mapbits (withText "a") = .next t ∧ t.err = true :=
  (of_check (p := fun t => t.err) (by decide +kernel)).imp fun _ h => ⟨h.1, h.2⟩
theorem test_witness_frames : [Instr.analyze, .build, .tser, .tdes, .gencodes, .buildtxt, .mapbits, .pack, .assemble, .encode, .parse,
    .unpack, .decode].all (fun i => check i (withText "a") fun _ => true) = true := by decide +kernel
theorem test_witness_FailedDecodeLeavesNothing :
    ∃ t, exec .decode { State.reset with byi := hdr 4 4 94 ++ ser treeAaaa ++ [0x10#8] } = .next t ∧ t.err = true :=
  (of_check (p := fun t => t.err) (by decide +kernel)).imp fun _ h => ⟨h.1, h.2⟩
theorem test_witness_StepKeepsInvariant : twoSame.Inv ∧ ∃ t, step twoSame = .next t := ⟨twoSame_inv, _, rfl⟩
theorem test_witness_ResetHasInvariant : small.wf = true := by decide
theorem test_witness_SortedFrequenciesOrdered :
    SymMap.wf [('a', 0#32)] = true ∧ totalCount [('a', 0#32)] = 0 ∧
    SymMap.wf [('a', 1#32), ('b', 1#32)] = true ∧ totalCount [('a', 1#32), ('b', 1#32)] ≠ 0 := by decide
theorem test_witness_CompressionRatioNonnegative :
    let p : ReportParams := ⟨List.length, true, false, id⟩
    (∀ x : ℚ, 0 ≤ x → 0 ≤ p.round2 x) ∧ p.round2 0 = 0 ∧ p.originalSize [] = 0 := ⟨fun _ h => h, rfl, rfl⟩

end Sys2Proof.Tests
end

/-! PROOFS of the family 10_state.md: the step seen case by case, the host's transactions, and the invariant of R41. -/

namespace Sys2Proof.Machine

/-! ### The step, one equation per kind of transaction -/

section StepEquations

variable {s t : State} {rest : List HostTxn}

/-- Dropping the oldest transaction leaves the ones behind it pending. -/
theorem State.dropTxn_of_host {x : HostTxn} (h : s.host = x :: rest) : s.dropTxn = { s with host := rest } := by
  simp [State.dropTxn, h]

theorem pendingWord_of_cmd {w : Word} (h : s.host = .wrcsr 1 w :: rest) : pendingWord s = some w := by
  simp [pendingWord, h]

theorem pendingWord_of_not_cmd {x : HostTxn} (h : s.host = x :: rest) (hx : ∀ w, x ≠ .wrcsr 1 w) :
    pendingWord s = none := by
  unfold pendingWord
  split
  · rename_i w _ hw
    rw [h] at hw
    exact absurd (List.cons.inj hw).1 (hx w)
  · rfl

/-- A command's word decodes to that command (R71). -/
theorem decode_encode (i : Instr) : decode (encode i) = .ok i := by
  cases i <;> decide

theorem step_of_command {w : Word} {i : Instr} (h : s.host = .wrcsr 1 w :: rest) (hw : decode w = .ok i) :
    step s = exec i { s with host := rest } := by
  rw [step, pendingWord_of_cmd h]
  simp only [hw, State.dropTxn_of_host h]

theorem step_of_txn {x : HostTxn} (h : s.host = x :: rest) (hx : ∀ w, x ≠ .wrcsr 1 w) :
    step s = hostTxn x { s with host := rest } := by
  rw [step, pendingWord_of_not_cmd h hx]
  simp only [hostStep, h, State.dropTxn_of_host h]

theorem step_of_load {st : Store} {v : HostValue} (h : s.host = .load st v :: rest) :
    step s = hostLoad st v { s with host := rest } :=
  step_of_txn h fun _ => HostTxn.noConfusion

theorem step_idle (h : s.host = []) : step s = .next s := by
  simp [step, pendingWord, hostStep, h]

/-- Everything a step that answers a next state can have done. -/
theorem step_next (h : step s = .next t) :
    t = s ∨ (∃ i, exec i s.dropTxn = .next t) ∨ t = s.dropTxn.takeError .illegalCmd ∨
      ∃ x, hostTxn x s.dropTxn = .next t := by
  unfold step at h
  split at h
  · split at h
    · exact .inr (.inl ⟨_, h⟩)
    · cases h; exact .inr (.inr (.inl rfl))
  · unfold hostStep at h
    split at h
    · cases h; exact .inl rfl
    · exact .inr (.inr (.inr ⟨_, h⟩))

end StepEquations

/-! ### The host's transactions -/

section HostTransactions

variable {s t : State}

theorem loadSeq_next {α : Type} {st : Store} {cap : Nat} {v : List α} {u : State} :
    loadSeq st cap v u = .next t ↔ v.length ≤ cap ∧ t = u := by
  unfold loadSeq
  split <;> rename_i hc
  · simp; omega
  · simp [Nat.not_lt.mp hc, eq_comm]

theorem loadSeq_overCapacity {α : Type} {st : Store} {cap : Nat} {v : List α} {u : State} (h : cap < v.length) :
    loadSeq st cap v u = .refused (.loadOverCapacity st) :=
  if_pos h

/-- Everything a LOAD that is not refused can have done (R61). -/
theorem hostLoad_next {st : Store} {v : HostValue} (h : hostLoad st v s = .next t) :
    (∃ l, l.length ≤ s.cfg.txtMax ∧ t = s.setTxi l) ∨ (∃ l, l.length ≤ s.cfg.bytMax ∧ t = s.setByi l) ∨
      (∃ l, l.length ≤ s.cfg.bytMax ∧ t = s.setSer l) ∨ (∃ l, l.length ≤ s.cfg.bytMax ∧ t = s.setPay l) ∨
      (∃ l, l.length ≤ s.cfg.bitMax ∧ t = s.setBit l) ∨
      ∃ l, (l.map Prod.fst).Nodup ∧ l.length ≤ s.cfg.symsMax ∧ t = s.setFt (SymMap.ofList l) := by
  unfold hostLoad at h
  split at h
  case h_1 => exact .inl ⟨_, loadSeq_next.mp h⟩
  case h_2 => exact .inr (.inl ⟨_, loadSeq_next.mp h⟩)
  case h_3 => exact .inr (.inr (.inl ⟨_, loadSeq_next.mp h⟩))
  case h_4 => exact .inr (.inr (.inr (.inl ⟨_, loadSeq_next.mp h⟩)))
  case h_5 => exact .inr (.inr (.inr (.inr (.inl ⟨_, loadSeq_next.mp h⟩))))
  case h_6 =>
    split at h
    · exact .inr (.inr (.inr (.inr (.inr ⟨_, ‹_›, loadSeq_next.mp h⟩))))
    · cases h
  all_goals cases h

/-- A READ that is not refused changes the host's answer alone (R57). -/
theorem hostRead_next {st : Store} (h : hostRead st s = .next t) : ∃ v, t = s.setReply v := by
  cases st <;> cases h <;> exact ⟨_, rfl⟩

/-- Everything a transaction that writes no command word can have done. -/
theorem hostTxn_next {x : HostTxn} (h : hostTxn x s = .next t) :
    t = s ∨ t = s.resetBlock ∨ (∃ v, t = s.setReply v) ∨ ∃ st v, hostLoad st v s = .next t := by
  cases x with
  | load st v => exact .inr (.inr (.inr ⟨st, v, h⟩))
  | read st => exact .inr (.inr (.inl (hostRead_next h)))
  | rdcsr n => cases h; exact .inr (.inr (.inl ⟨_, rfl⟩))
  | wrcsr n w => cases h; exact .inl rfl
  | reset => cases h; exact .inr (.inl rfl)

/-- A LOAD of one of the four stores the block alone writes (R39). -/
theorem hostLoad_notPermitted {st : Store} {v : HostValue} (h : st ∈ [Store.txo, .byo, .tree, .ct]) :
    hostLoad st v s = .refused (.loadNotPermitted st) := by
  simp only [List.mem_cons, List.not_mem_nil, or_false] at h
  obtain rfl | rfl | rfl | rfl := h <;> rfl

/-- A LOAD of a loadable store with a value that is not of its type (R21, D30). -/
theorem hostLoad_illTyped {st : Store} {v : HostValue} (h : st ∈ [Store.txi, .byi, .ser, .pay, .bit, .ft])
    (hk : v.kind ≠ st.kind) : hostLoad st v s = .refused (.loadIllTyped st) := by
  unfold hostLoad
  split
  case h_1 | h_2 | h_3 | h_4 | h_5 | h_6 => exact absurd rfl hk
  case h_7 | h_8 | h_9 | h_10 => simp at h
  case h_11 => rfl

/-- A LOAD of more bytes than the store holds (R39, D30). -/
theorem hostLoad_bytes_overCapacity {st : Store} {v : List Byte} (h : st ∈ [Store.byi, .ser, .pay])
    (hc : s.cfg.bytMax < v.length) : hostLoad st (.bytes v) s = .refused (.loadOverCapacity st) := by
  simp only [List.mem_cons, List.not_mem_nil, or_false] at h
  obtain rfl | rfl | rfl := h <;> exact loadSeq_overCapacity hc

/-- STATUS (R34), its two bits side by side. -/
theorem statusWord_eq (s : State) :
    statusWord s = (if s.err then 1#32 else 0#32) ||| (if s.tree = .absent then 0#32 else 2#32) := by
  unfold statusWord
  cases s.err <;> cases s.tree <;> simp [HuffTree.present]

end HostTransactions

/-! ### Code tables (R26, R142): no code of a tree begins another -/

section CodeTables

/-- What R26 asks of CT: canonical form, no empty code, no code at the start of another. -/
structure IsCodeTable (ct : SymMap BitStr) : Prop where
  wf : SymMap.wf ct = true
  codes : ∀ kv ∈ ct, kv.2 ≠ []
  prefixFree : PrefixFree ct

theorem isCodeTable_nil : IsCodeTable [] where
  wf := SymMap.wf_nil
  codes _ h := absurd h List.not_mem_nil
  prefixFree _ h := absurd h List.not_mem_nil

theorem SymMap.mem_insert {α : Type} {k : Symbol} {v : α} {m : SymMap α} {x : Symbol × α}
    (h : x ∈ SymMap.insert k v m) : x = (k, v) ∨ x ∈ m := by
  induction m with
  | nil => exact .inl (List.mem_singleton.mp h)
  | cons y m ih =>
    simp only [SymMap.insert] at h
    split at h
    · exact List.mem_cons.mp h
    · split at h
      · exact (List.mem_cons.mp h).imp_right (List.mem_cons_of_mem _)
      · rcases List.mem_cons.mp h with rfl | h
        · exact .inr List.mem_cons_self
        · exact (ih h).imp_right (List.mem_cons_of_mem _)

theorem SymMap.mem_foldl_insert {α : Type} {l : List (Symbol × α)} {m : SymMap α} {x : Symbol × α}
    (h : x ∈ l.foldl (fun m kv => SymMap.insert kv.1 kv.2 m) m) : x ∈ l ∨ x ∈ m := by
  induction l generalizing m with
  | nil => exact .inr h
  | cons y l ih =>
    rcases ih h with h | h
    · exact .inl (List.mem_cons_of_mem _ h)
    · exact (SymMap.mem_insert h).imp_left fun (e : x = y) => e ▸ List.mem_cons_self

/-- The map of a list has no entry that is not listed. -/
theorem SymMap.mem_ofList {α : Type} {l : List (Symbol × α)} {x : Symbol × α} (h : x ∈ SymMap.ofList l) : x ∈ l :=
  (SymMap.mem_foldl_insert h).resolve_right List.not_mem_nil

/-- The entry GENCODES records for a leaf and its path (R140). -/
def leafEntry (x : Symbol × BitStr) : Symbol × BitStr := (x.1, leafCode x.2)

/-- The depth-first walk of R140 inserts the leaves' entries one after another, left before right. -/
theorem visit_eq_foldl (t : HuffTree) (p : BitStr) (ct : SymMap BitStr) :
    visit t p ct = ((t.paths p).map leafEntry).foldl (fun m kv => SymMap.insert kv.1 kv.2 m) ct := by
  induction t generalizing p ct with
  | absent => rfl
  | node f s l r ihl ihr =>
    simp only [visit, HuffTree.paths]
    split
    · cases s <;> rfl
    · rw [ihr, ihl, List.map_append, List.foldl_append]

theorem codesOf_eq_ofList (t : HuffTree) : codesOf t = SymMap.ofList ((t.paths []).map leafEntry) :=
  visit_eq_foldl t [] []

/-- Every path listed from `p` goes on from `p`. -/
theorem HuffTree.prefix_of_mem_paths {t : HuffTree} {p : BitStr} {x : Symbol × BitStr} (h : x ∈ t.paths p) :
    p <+: x.2 := by
  induction t generalizing p with
  | absent => exact absurd h List.not_mem_nil
  | node f s l r ihl ihr =>
    simp only [HuffTree.paths] at h
    split at h
    · cases s with
      | none => exact absurd h List.not_mem_nil
      | some c => rw [List.mem_singleton.mp h]
    · rcases List.mem_append.mp h with h | h
      · exact (List.prefix_append p _).trans (ihl h)
      · exact (List.prefix_append p _).trans (ihr h)

/-- Two strings, neither at the start of the other. -/
def Incomparable (a b : BitStr) : Prop := ¬ a <+: b ∧ ¬ b <+: a

theorem Incomparable.symm {a b : BitStr} (h : Incomparable a b) : Incomparable b a := ⟨h.2, h.1⟩

/-- Two ways that part after `p` cannot lead to one string. -/
theorem not_both_prefix {p q : BitStr} (hf : p ++ [false] <+: q) (ht : p ++ [true] <+: q) : False := by
  have h : p ++ [false] = p ++ [true] :=
    (List.prefix_of_prefix_length_le hf ht (by simp)).eq_of_length (by simp)
  simp at h

theorem incomparable_of_part {p a b : BitStr} (ha : p ++ [false] <+: a) (hb : p ++ [true] <+: b) : Incomparable a b :=
  ⟨fun h => not_both_prefix (ha.trans h) hb, fun h => not_both_prefix ha (hb.trans h)⟩

/-- No leaf lies on the way to another: the paths of a tree are pairwise incomparable. -/
theorem HuffTree.paths_pairwise_incomparable (t : HuffTree) (p : BitStr) :
    (t.paths p).Pairwise fun a b => Incomparable a.2 b.2 := by
  induction t generalizing p with
  | absent => exact List.Pairwise.nil
  | node f s l r ihl ihr =>
    simp only [HuffTree.paths]
    split
    · cases s with
      | none => exact List.Pairwise.nil
      | some c => exact List.pairwise_singleton _ _
    · exact List.pairwise_append.mpr ⟨ihl _, ihr _, fun a ha b hb =>
        incomparable_of_part (prefix_of_mem_paths ha) (prefix_of_mem_paths hb)⟩

theorem leafCode_ne_nil (p : BitStr) : leafCode p ≠ [] := by
  unfold leafCode
  split
  · exact List.cons_ne_nil _ _
  · assumption

/-- Where two leaves lie apart neither path is empty, so the codes recorded are the paths. -/
theorem not_leafCode_prefix {a b : BitStr} (h : Incomparable a b) : ¬ leafCode a <+: leafCode b := by
  have ha : a ≠ [] := by rintro rfl; exact h.1 List.nil_prefix
  have hb : b ≠ [] := by rintro rfl; exact h.2 List.nil_prefix
  rw [leafCode, if_neg ha, leafCode, if_neg hb]
  exact h.1

/-- GENCODES makes a code table of any tree, one with repeated symbols or missing children included (R142). -/
theorem isCodeTable_codesOf (t : HuffTree) : IsCodeTable (codesOf t) := by
  have hmem : ∀ x ∈ codesOf t, ∃ y ∈ t.paths [], leafEntry y = x := fun x hx =>
    List.mem_map.mp (SymMap.mem_ofList (codesOf_eq_ofList t ▸ hx))
  constructor
  · rw [codesOf_eq_ofList]
    exact SymMap.wf_ofList _
  · intro x hx
    obtain ⟨y, -, rfl⟩ := hmem x hx
    exact leafCode_ne_nil y.2
  · intro a ha b hb hne
    obtain ⟨x, hx, rfl⟩ := hmem a ha
    obtain ⟨y, hy, rfl⟩ := hmem b hb
    have hxy : x ≠ y := fun e => hne (congrArg Prod.fst (congrArg leafEntry e))
    have hsymm : Std.Symm fun a b : Symbol × BitStr => Incomparable a.2 b.2 := ⟨fun _ _ => Incomparable.symm⟩
    exact not_leafCode_prefix ((t.paths_pairwise_incomparable []).forall hx hy hxy)

end CodeTables

/-! ### Sizes: the tree BUILD makes, the bytes PACK makes -/

section Sizes

/-- The nodes of all trees in BUILD's queue. -/
def queueNodes (q : List QNode) : Nat := (q.map fun x => x.tree.nodes).sum

theorem queueNodes_takeLeast {before : QNode → QNode → Bool} {q rest : List QNode} {m : QNode}
    (h : takeLeast before q = some (m, rest)) : queueNodes q = m.tree.nodes + queueNodes rest := by
  unfold queueNodes
  rw [((takeLeast_perm h).map _).sum_eq, List.map_cons, List.sum_cons]

theorem leafQueue_length (m : SymMap Count) (seq : Nat) : (leafQueue m seq).length = m.length := by
  induction m generalizing seq with
  | nil => rfl
  | cons x m ih => simp [leafQueue, ih]

theorem queueNodes_leafQueue (m : SymMap Count) (seq : Nat) : queueNodes (leafQueue m seq) = m.length := by
  induction m generalizing seq with
  | nil => rfl
  | cons x m ih =>
    have := ih (seq + 1)
    simp only [queueNodes, leafQueue, HuffTree.nodes, List.map_cons, List.sum_cons, List.length_cons] at this ⊢
    omega

/-- Each merge adds one node and leaves one tree fewer (R120). -/
theorem nodes_mergeAll_le {before : QNode → QNode → Bool} {fuel : Nat} {q : List QNode} {seq : Nat} {t : HuffTree}
    (h : mergeAll before fuel q seq = .ok t) : t.nodes ≤ queueNodes q + q.length - 1 := by
  induction fuel generalizing q seq with
  | zero => cases h; exact Nat.zero_le _
  | succ fuel ih =>
    simp only [mergeAll] at h
    split at h
    · cases h; exact Nat.zero_le _
    · rename_i a q₁ ha
      have hn₁ := queueNodes_takeLeast ha
      have hl₁ := takeLeast_length ha
      split at h
      · cases h; omega
      · rename_i b q₂ hb
        have hn₂ := queueNodes_takeLeast hb
        have hl₂ := takeLeast_length hb
        split at h
        · have := ih h
          simp only [queueNodes, HuffTree.nodes, List.map_cons, List.sum_cons, List.length_cons] at this hn₁ hn₂ ⊢
          omega
        · cases h

/-- BUILD's capacity check is enough: the tree it makes fits (R120). -/
theorem nodes_buildWith_le {before : QNode → QNode → Bool} {nodeMax : Nat} {ft : SymMap Count} {t : HuffTree}
    (h : buildWith before nodeMax ft = .ok t) : t.nodes ≤ nodeMax := by
  unfold buildWith at h
  split at h
  · cases h; exact Nat.zero_le _
  · rw [check_ok] at h
    obtain ⟨hcap, ht⟩ := h
    cases ht
    simp only [HuffTree.nodes]
    omega
  · rw [check_ok] at h
    obtain ⟨hcap, ht⟩ := h
    have := nodes_mergeAll_le ht
    rw [queueNodes_leafQueue, leafQueue_length] at this
    omega

theorem padCount_le (n : Nat) : padCount n ≤ 7 := by
  unfold padCount
  omega

/-- One byte for each whole group of eight bits (R53). -/
theorem packBytes_length (b : BitStr) : (packBytes b).length = b.length / 8 := by
  induction b using packBytes.induct with
  | case1 b7 b6 b5 b4 b3 b2 b1 b0 rest ih =>
    simp only [packBytes, List.length_cons, ih]
    omega
  | case2 b hshort =>
    have hlt : b.length < 8 := by
      match b, hshort with
      | [], _ | [_], _ | [_, _], _ | [_, _, _], _ | [_, _, _, _], _ | [_, _, _, _, _], _ | [_, _, _, _, _, _], _
      | [_, _, _, _, _, _, _], _ => simp
      | _ :: _ :: _ :: _ :: _ :: _ :: _ :: _ :: _, h => exact absurd rfl (h _ _ _ _ _ _ _ _ _)
    rw [packBytes.eq_2 b hshort, Nat.div_eq_of_lt hlt, List.length_nil]

end Sizes

/-! ### The invariant in two parts

A command replaces the error registers whole and a LOAD leaves them alone, so the clauses on them stand apart from those on
the stores and header registers. -/

section Invariant

/-- The clauses of the invariant on capacities, stores and header registers. -/
structure State.DataInv (s : State) : Prop where
  caps : s.cfg.wf = true
  ft : SymMap.wf s.ft = true
  ct : IsCodeTable s.ct
  pad : s.hdrPad.toNat ≤ 7
  ver : s.hdrVer = 0#32 ∨ s.hdrVer = 1#32
  within : s.WithinCapacity

/-- The clauses of the invariant on the error registers. -/
structure State.ErrInv (s : State) : Prop where
  errIff : s.err = true ↔ s.errcode ≠ 0#32
  errRange : s.errcode.toNat ≤ 13

theorem State.inv_iff {s : State} : s.Inv ↔ s.DataInv ∧ s.ErrInv := by
  constructor
  · intro h
    obtain ⟨hft, hct⟩ : SymMap.wf s.ft = true ∧ SymMap.wf s.ct = true := by simpa [Memory.wf] using h.maps
    exact ⟨⟨h.caps, hft, ⟨hct, h.codes, h.prefixFree⟩, h.pad, h.ver, h.within⟩, h.errIff, h.errRange⟩
  · rintro ⟨hd, he⟩
    have hmaps : Memory.wf s = true := by simp [Memory.wf, hd.ft, hd.ct.wf]
    exact ⟨hd.caps, hmaps, hd.pad, hd.ver, he.errIff, he.errRange, hd.ct.codes, hd.ct.prefixFree, hd.within⟩

theorem State.errInv_endOk (s : State) : s.endOk.ErrInv := ⟨by simp, by simp⟩

theorem State.errInv_takeError (s : State) (e : ErrCode) : (s.takeError e).ErrInv :=
  ⟨by simp [e.code_ne_zero], by simpa using e.code_le⟩

variable {s t : State}

/-! One rule per update: what the new value must meet. -/

theorem State.DataInv.setTxi {v : List Symbol} (h : s.DataInv) (hv : v.length ≤ s.cfg.txtMax) : (s.setTxi v).DataInv :=
  { h with within := { h.within with txi := hv } }

theorem State.DataInv.setTxo {v : List Symbol} (h : s.DataInv) (hv : v.length ≤ s.cfg.txtMax) : (s.setTxo v).DataInv :=
  { h with within := { h.within with txo := hv } }

theorem State.DataInv.setByi {v : List Byte} (h : s.DataInv) (hv : v.length ≤ s.cfg.bytMax) : (s.setByi v).DataInv :=
  { h with within := { h.within with byi := hv } }

theorem State.DataInv.setSer {v : List Byte} (h : s.DataInv) (hv : v.length ≤ s.cfg.bytMax) : (s.setSer v).DataInv :=
  { h with within := { h.within with ser := hv } }

theorem State.DataInv.setPay {v : List Byte} (h : s.DataInv) (hv : v.length ≤ s.cfg.bytMax) : (s.setPay v).DataInv :=
  { h with within := { h.within with pay := hv } }

theorem State.DataInv.setBit {v : BitStr} (h : s.DataInv) (hv : v.length ≤ s.cfg.bitMax) : (s.setBit v).DataInv :=
  { h with within := { h.within with bit := hv } }

theorem State.DataInv.setFt {v : SymMap Count} (h : s.DataInv) (hwf : SymMap.wf v = true)
    (hv : v.length ≤ s.cfg.symsMax) : (s.setFt v).DataInv :=
  { h with ft := hwf, within := { h.within with ft := hv } }

theorem State.DataInv.setCt {v : SymMap BitStr} (h : s.DataInv) (hct : IsCodeTable v)
    (hv : v.length ≤ s.cfg.symsMax) : (s.setCt v).DataInv :=
  { h with ct := hct, within := { h.within with ct := hv } }

theorem State.DataInv.setTree {v : HuffTree} (h : s.DataInv) (hv : v.nodes ≤ s.cfg.nodeMax) : (s.setTree v).DataInv :=
  { h with within := { h.within with tree := hv } }

theorem State.DataInv.setPacked {p : List Byte} {d : Word} (h : s.DataInv) (hp : p.length ≤ s.cfg.bytMax)
    (hd : d.toNat ≤ 7) : (s.setPacked p d).DataInv :=
  { h with pad := hd, within := { h.within with pay := hp } }

theorem State.DataInv.setContainer {b : List Byte} {x : Word} (y z : Word) (h : s.DataInv)
    (hb : b.length ≤ s.cfg.bytMax) (hx : x = 0#32 ∨ x = 1#32) : (s.setContainer b x y z).DataInv :=
  { h with ver := hx, within := { h.within with byo := hb } }

theorem State.DataInv.setParsed {e p : List Byte} {x d : Word} (y z : Word) (h : s.DataInv)
    (he : e.length ≤ s.cfg.bytMax) (hp : p.length ≤ s.cfg.bytMax) (hx : x = 0#32 ∨ x = 1#32) (hd : d.toNat ≤ 7) :
    (s.setParsed e p x d y z).DataInv :=
  { h with ver := hx, pad := hd, within := { h.within with ser := he, pay := hp } }

theorem State.DataInv.endOk (h : s.DataInv) : s.endOk.DataInv := { h with within := { h.within with } }

theorem State.DataInv.takeError (h : s.DataInv) (e : ErrCode) : (s.takeError e).DataInv :=
  { h with within := { h.within with } }

theorem State.DataInv.dropTxn (h : s.DataInv) : s.dropTxn.DataInv := { h with within := { h.within with } }

theorem State.DataInv.setReply (h : s.DataInv) (v : HostValue) : (s.setReply v).DataInv :=
  { h with within := { h.within with } }

theorem State.DataInv.clearInputs (h : s.DataInv) : s.clearInputs.DataInv :=
  { h with within := { h.within with txi := Nat.zero_le _, byi := Nat.zero_le _ } }

theorem State.dataInv_resetOf {c : Config} (h : c.wf = true) : (State.resetOf c).DataInv where
  caps := h
  ft := SymMap.wf_nil
  ct := isCodeTable_nil
  pad := Nat.zero_le _
  ver := .inl rfl
  within := by constructor <;> exact Nat.zero_le _

/-- CLEAR_WORK leaves what reset leaves, but for the inputs. -/
theorem State.DataInv.clearWork (h : s.DataInv) : s.clearWork.DataInv :=
  { State.dataInv_resetOf h.caps with
    within := { (State.dataInv_resetOf h.caps).within with txi := h.within.txi, byi := h.within.byi } }

theorem State.DataInv.resetBlock (h : s.DataInv) : s.resetBlock.DataInv :=
  { State.dataInv_resetOf h.caps with within := { (State.dataInv_resetOf h.caps).within with } }

/-- After reset ERR and ERRCODE are both 0. -/
theorem State.inv_resetOf {c : Config} (h : c.wf = true) : (State.resetOf c).Inv :=
  State.inv_iff.mpr ⟨State.dataInv_resetOf h, State.errInv_endOk (State.resetOf c)⟩

/-- An update that leaves the error registers alone need only keep the rest. -/
theorem State.Inv.of_dataInv (h : s.Inv) (hd : t.DataInv) (herr : t.err = s.err) (hcode : t.errcode = s.errcode) :
    t.Inv := by
  obtain ⟨-, he⟩ := State.inv_iff.mp h
  exact State.inv_iff.mpr ⟨hd, by rw [herr, hcode]; exact he.errIff, by rw [hcode]; exact he.errRange⟩

/-! ### Every stage keeps the stores and header registers within the invariant -/

theorem stageAnalyze_dataInv (h : s.DataInv) (hs : stageAnalyze s = .ok t) : t.DataInv := by
  obtain ⟨hcap, rfl⟩ := stageAnalyze_ok.mp hs
  exact h.setFt (wf_countSymbols _) hcap

theorem stageBuild_dataInv (h : s.DataInv) (hs : stageBuild s = .ok t) : t.DataInv := by
  obtain ⟨tree, hb, rfl⟩ := stageBuild_ok.mp hs
  exact h.setTree (nodes_buildWith_le hb)

theorem stageTser_dataInv (h : s.DataInv) (hs : stageTser s = .ok t) : t.DataInv := by
  obtain ⟨-, hcap, rfl⟩ := stageTser_ok.mp hs
  exact h.setSer hcap

theorem stageTdes_dataInv (h : s.DataInv) (hs : stageTdes s = .ok t) : t.DataInv := by
  obtain ⟨tree, -, rfl, rfl | ⟨hcap, -⟩⟩ := stageTdes_ok.mp hs
  · exact h.setTree (Nat.zero_le _)
  · exact h.setTree hcap

theorem stageGencodes_dataInv (h : s.DataInv) (hs : stageGencodes s = .ok t) : t.DataInv := by
  obtain ⟨-, hcap, rfl⟩ := stageGencodes_ok.mp hs
  exact h.setCt (isCodeTable_codesOf _) hcap

theorem stageMapbits_dataInv (h : s.DataInv) (hs : stageMapbits s = .ok t) : t.DataInv := by
  obtain ⟨bits, -, hcap, rfl⟩ := stageMapbits_ok.mp hs
  exact h.setBit hcap

theorem stagePack_dataInv (h : s.DataInv) (hs : stagePack s = .ok t) : t.DataInv := by
  obtain ⟨hcap, rfl⟩ := stagePack_ok.mp hs
  refine h.setPacked ?_ ?_
  · rw [packBytes_length, List.length_append, List.length_replicate]
    exact hcap
  · rw [BitVec.toNat_ofNat]
    exact (Nat.mod_le _ _).trans (padCount_le _)

theorem stageAssemble_dataInv (h : s.DataInv) (hs : stageAssemble s = .ok t) : t.DataInv := by
  obtain ⟨hcap, rfl⟩ := stageAssemble_ok.mp hs
  exact h.setContainer _ _ hcap (.inr rfl)

/-- The empty record is shorter than the container it stands in, whose length is checked. -/
theorem stageEmptyFile_dataInv (h : s.DataInv) (hs : stageEmptyFile s = .ok t) : t.DataInv := by
  obtain ⟨hcap, rfl⟩ := stageEmptyFile_ok.mp hs
  have hser : emptyRecord.length ≤ s.cfg.bytMax := le_trans (by decide) hcap
  exact ((h.setSer hser).setPacked (Nat.zero_le _) (Nat.zero_le _)).setContainer _ _ hcap (.inr rfl)

/-- SER and PAY are slices of BYI, and the fields of the header have passed PARSE's checks. -/
theorem stageParse_dataInv (h : s.DataInv) (hs : stageParse s = .ok t) : t.DataInv := by
  obtain ⟨c, hc, rfl⟩ := stageParse_ok.mp hs
  obtain ⟨-, -, hver, hpad, -, rfl⟩ := parseContainer_ok.mp hc
  have hbyi := h.within.byi
  refine h.setParsed _ _ ?_ ?_ (.inr ?_) ?_
  · rw [List.length_take, List.length_drop]
    omega
  · rw [List.length_drop]
    omega
  · simp [hver]
  · rw [BitVec.toNat_setWidth]
    exact (Nat.mod_le _ _).trans hpad

theorem stageUnpack_dataInv (h : s.DataInv) (hs : stageUnpack s = .ok t) : t.DataInv := by
  obtain ⟨hbits, text, -, htext, rfl⟩ := stageUnpack_ok.mp hs
  exact (h.setBit hbits).setTxo htext

theorem stagesBuildtxt_dataInv (h : s.DataInv) (hs : stagesBuildtxt s = .ok t) : t.DataInv := by
  obtain ⟨s₁, h₁, s₂, h₂, h₃⟩ := stagesBuildtxt_ok.mp hs
  exact stageGencodes_dataInv (stageBuild_dataInv (stageAnalyze_dataInv h h₁) h₂) h₃

theorem stagesEncode_dataInv (h : s.DataInv) (hs : stagesEncode s = .ok t) : t.DataInv := by
  obtain ⟨s₁, h₁, s₂, h₂, s₃, h₃, s₄, h₄, s₅, h₅, s₆, h₆, h₇⟩ := stagesEncode_ok.mp hs
  have hcodes := stageGencodes_dataInv (stageBuild_dataInv (stageAnalyze_dataInv h h₁) h₂) h₃
  have hpacked := stagePack_dataInv (stageMapbits_dataInv hcodes h₄) h₅
  exact stageAssemble_dataInv (stageTser_dataInv hpacked h₆) h₇

theorem stagesDecode_dataInv (h : s.DataInv) (hs : stagesDecode s = .ok t) : t.DataInv := by
  obtain ⟨p, hp, ⟨-, rfl⟩ | ⟨-, q, hq, ⟨-, rfl⟩ | ⟨-, hu⟩⟩⟩ := stagesDecode_ok.mp hs
  · exact (stageParse_dataInv h hp).setTxo (Nat.zero_le _)
  · exact (stageTdes_dataInv (stageParse_dataInv h hp) hq).setTxo (Nat.zero_le _)
  · exact stageUnpack_dataInv (stageTdes_dataInv (stageParse_dataInv h hp) hq) hu

/-! ### Commands, transactions and the step -/

/-- A command's end writes the error registers whole (R231), so its stages and its emptied state need only keep the rest. -/
theorem endCommand_inv {z : State} {r : Except ErrCode State} (hz : z.DataInv) (hr : ∀ u, r = .ok u → u.DataInv)
    (h : endCommand z r = .next t) : t.Inv := by
  obtain ⟨u, hu, rfl⟩ | ⟨e, -, rfl⟩ := endCommand_next h
  · exact State.inv_iff.mpr ⟨(hr u hu).endOk, u.errInv_endOk⟩
  · exact State.inv_iff.mpr ⟨hz.takeError e, z.errInv_takeError e⟩

/-- Every command ends in a state with the invariant, whatever the error registers held before it. -/
theorem exec_inv {i : Instr} (h : s.DataInv) (hx : exec i s = .next t) : t.Inv := by
  cases i with
  | clear =>
    cases hx
    exact State.inv_iff.mpr ⟨h.clearInputs.clearWork.endOk, State.errInv_endOk _⟩
  | analyze => exact endCommand_inv (h.setFt SymMap.wf_nil (Nat.zero_le _)) (fun _ => stageAnalyze_dataInv h) hx
  | build => exact endCommand_inv (h.setTree (Nat.zero_le _)) (fun _ => stageBuild_dataInv h) hx
  | tser => exact endCommand_inv (h.setSer (Nat.zero_le _)) (fun _ => stageTser_dataInv h) hx
  | tdes => exact endCommand_inv (h.setTree (Nat.zero_le _)) (fun _ => stageTdes_dataInv h) hx
  | gencodes => exact endCommand_inv (h.setCt isCodeTable_nil (Nat.zero_le _)) (fun _ => stageGencodes_dataInv h) hx
  | buildtxt => exact endCommand_inv h.clearWork (fun _ => stagesBuildtxt_dataInv h.clearWork) hx
  | mapbits => exact endCommand_inv (h.setBit (Nat.zero_le _)) (fun _ => stageMapbits_dataInv h) hx
  | pack => exact endCommand_inv (h.setPacked (Nat.zero_le _) (Nat.zero_le _)) (fun _ => stagePack_dataInv h) hx
  | assemble =>
    exact endCommand_inv (h.setContainer _ _ (Nat.zero_le _) (.inl rfl)) (fun _ => stageAssemble_dataInv h) hx
  | encode =>
    refine endCommand_inv h.clearWork (fun u hu => ?_) hx
    split at hu
    · exact stageEmptyFile_dataInv h.clearWork hu
    · exact stagesEncode_dataInv h.clearWork hu
  | parse =>
    exact endCommand_inv (h.setParsed _ _ (Nat.zero_le _) (Nat.zero_le _) (.inl rfl) (Nat.zero_le _))
      (fun _ => stageParse_dataInv h) hx
  | unpack =>
    exact endCommand_inv ((h.setBit (Nat.zero_le _)).setTxo (Nat.zero_le _)) (fun _ => stageUnpack_dataInv h) hx
  | decode => exact endCommand_inv h.clearWork (fun _ => stagesDecode_dataInv h.clearWork) hx

/-- A LOAD that is not refused was checked against the store's capacity (R39). -/
theorem hostLoad_inv {st : Store} {v : HostValue} (h : s.Inv) (hl : hostLoad st v s = .next t) : t.Inv := by
  obtain ⟨hd, -⟩ := State.inv_iff.mp h
  obtain ⟨l, hc, rfl⟩ | ⟨l, hc, rfl⟩ | ⟨l, hc, rfl⟩ | ⟨l, hc, rfl⟩ | ⟨l, hc, rfl⟩ | ⟨l, hk, hc, rfl⟩ := hostLoad_next hl
  · exact h.of_dataInv (hd.setTxi hc) rfl rfl
  · exact h.of_dataInv (hd.setByi hc) rfl rfl
  · exact h.of_dataInv (hd.setSer hc) rfl rfl
  · exact h.of_dataInv (hd.setPay hc) rfl rfl
  · exact h.of_dataInv (hd.setBit hc) rfl rfl
  · have hlen : (SymMap.ofList l).length = l.length := (SymMap.ofList_perm l hk).length_eq
    exact h.of_dataInv (hd.setFt (SymMap.wf_ofList l) (hlen.trans_le hc)) rfl rfl

theorem hostTxn_inv {x : HostTxn} (h : s.Inv) (ht : hostTxn x s = .next t) : t.Inv := by
  obtain ⟨hd, -⟩ := State.inv_iff.mp h
  obtain rfl | rfl | ⟨v, rfl⟩ | ⟨st, v, hl⟩ := hostTxn_next ht
  · exact h
  · exact State.inv_iff.mpr ⟨hd.resetBlock, State.errInv_endOk s.resetBlock⟩
  · exact h.of_dataInv (hd.setReply v) rfl rfl
  · exact hostLoad_inv h hl

theorem step_inv (h : s.Inv) (hs : step s = .next t) : t.Inv := by
  obtain ⟨hd, -⟩ := State.inv_iff.mp h
  obtain rfl | ⟨i, hx⟩ | rfl | ⟨x, hx⟩ := step_next hs
  · exact h
  · exact exec_inv hd.dropTxn hx
  · exact State.inv_iff.mpr ⟨hd.dropTxn.takeError _, State.errInv_takeError _ _⟩
  · exact hostTxn_inv (h.of_dataInv hd.dropTxn rfl rfl) hx

end Invariant

/-! ### The obligations -/

/-- Settles O57: a command writes the error registers whole and every store it fills has been checked; a transaction of the
host is checked before it changes a store. -/
theorem stepKeepsInvariant : Obligations.StepKeepsInvariant :=
  fun _ _ => step_inv

/-- Settles O4: the command's word decodes to the command. -/
theorem stepRunsPendingCommand : Obligations.StepRunsPendingCommand :=
  fun _ i _ h => step_of_command h (decode_encode i)

/-- Settles O5. -/
theorem idleStepKeepsState : Obligations.IdleStepKeepsState :=
  fun _ => step_idle

/-- Settles O8: each clause is one refusal of LOAD or READ. -/
theorem forbiddenHostAccessRefused : Obligations.ForbiddenHostAccessRefused := by
  intro s rest
  refine ⟨?_, ?_, ?_, ?_, ?_, ?_, ?_, ?_⟩
  · intro st v h hst
    rw [step_of_load h, hostLoad_notPermitted hst]
  · intro st v h hst hk
    rw [step_of_load h, hostLoad_illTyped hst hk]
  · intro v h hc
    rw [step_of_load h]
    exact loadSeq_overCapacity hc
  · intro st v h hst hc
    rw [step_of_load h]
    exact hostLoad_bytes_overCapacity hst hc
  · intro v h hc
    rw [step_of_load h]
    exact loadSeq_overCapacity hc
  · intro v h hk hc
    rw [step_of_load h, hostLoad, if_pos hk]
    exact loadSeq_overCapacity hc
  · intro v h hk
    rw [step_of_load h, hostLoad, if_neg hk]
  · intro h
    rw [step_of_txn h fun _ => HostTxn.noConfusion]
    rfl

/-- Settles O10: RDCSR answers `csrRead`, whose rows are the statement's. -/
theorem csrReadValues : Obligations.CsrReadValues := by
  intro s rest n h
  rw [step_of_txn h fun _ => HostTxn.noConfusion, hostTxn, State.setReply, csrRead.eq_def]
  split
  case h_3 => rw [statusWord_eq]; rfl
  case h_18 => simp_all
  all_goals rfl

/-- Settles O11. -/
theorem csrWriteIgnored : Obligations.CsrWriteIgnored := by
  intro s rest n w h hn
  have hx : ∀ w', HostTxn.wrcsr n w ≠ .wrcsr 1 w' := fun _ e => hn (HostTxn.wrcsr.inj e).1
  rw [step_of_txn h hx]
  rfl

/-- Settles O12. -/
theorem resetEmptiesEverything : Obligations.ResetEmptiesEverything := by
  intro s rest h
  rw [step_of_txn h fun _ => HostTxn.noConfusion]
  rfl

/-- Settles O58: every store is empty and every register 0. -/
theorem resetHasInvariant : Obligations.ResetHasInvariant :=
  ⟨fun _ => State.inv_resetOf, State.inv_resetOf (by decide)⟩

end Sys2Proof.Machine

/-! PROOFS of the family 20_memory.md: LOAD and READ, big-endian words, and bits packed into bytes. -/

namespace Sys2Proof.Machine

/-! ### LOAD within the capacity, and READ (R57, R61) -/

section HostAccess

variable {s : State} {rest : List HostTxn}

/-- A LOAD that comes down to a list checked against a capacity it does not exceed. -/
theorem step_of_load_within {α : Type} {st : Store} {v : HostValue} {cap : Nat} {l : List α} {u : State}
    (h : s.host = .load st v :: rest) (hl : hostLoad st v { s with host := rest } = loadSeq st cap l u)
    (hc : l.length ≤ cap) : step s = .next u := by
  rw [step_of_load h, hl]
  exact loadSeq_next.mpr ⟨hc, rfl⟩

/-- A table with unique keys is of FT's type. -/
theorem hostLoad_counts {v : List (Symbol × Count)} (hk : (v.map Prod.fst).Nodup) :
    hostLoad .ft (.counts v) s = loadSeq .ft s.cfg.symsMax v (s.setFt (SymMap.ofList v)) :=
  if_pos hk

theorem step_of_read {st : Store} (h : s.host = .read st :: rest) : step s = hostRead st { s with host := rest } :=
  step_of_txn h fun _ => HostTxn.noConfusion

end HostAccess

/-! ### Big-endian words (R52) -/

section BigEndian

theorem be32Bytes_toNat (v : Word) : (be32Bytes v).map BitVec.toNat =
    [v.toNat / 16777216, v.toNat / 65536 % 256, v.toNat / 256 % 256, v.toNat % 256] := by
  have htop : v.toNat / 16777216 % 256 = v.toNat / 16777216 := by omega
  simp [be32Bytes, Nat.shiftRight_eq_div_pow, htop]

/-- Four bytes never reach 2^32, so nothing is cut off. -/
theorem be32_toNat (b0 b1 b2 b3 : Byte) :
    (be32 b0 b1 b2 b3).toNat = b0.toNat * 16777216 + b1.toNat * 65536 + b2.toNat * 256 + b3.toNat := by
  rw [be32, BitVec.toNat_ofNat]
  omega

theorem be32At_be32Bytes (v : Word) : be32At (be32Bytes v) 0 = v := by
  have hbytes := be32Bytes_toNat v
  simp only [be32Bytes, List.map_cons, List.map_nil, List.cons.injEq, and_true] at hbytes
  obtain ⟨h0, h1, h2, h3⟩ := hbytes
  refine BitVec.eq_of_toNat_eq ((be32_toNat _ _ _ _).trans ?_)
  simp only [byteAt, be32Bytes, List.getD_cons_zero, List.getD_cons_succ, Nat.zero_add, h0, h1, h2, h3]
  omega

end BigEndian

/-! ### Bits and bytes (R53) -/

section BitsAndBytes

/-- Bit `i` of a byte as a digit of its value. -/
theorem getLsbD_toNat (b : Byte) (i : Nat) : (b.getLsbD i).toNat = b.toNat / 2 ^ i % 2 :=
  Nat.toNat_testBit _ _

/-- Eight bits never reach 2^8, so nothing is cut off. -/
theorem bitsByte_toNat (b7 b6 b5 b4 b3 b2 b1 b0 : Bool) : (bitsByte b7 b6 b5 b4 b3 b2 b1 b0).toNat =
    b7.toNat * 128 + b6.toNat * 64 + b5.toNat * 32 + b4.toNat * 16 + b3.toNat * 8 + b2.toNat * 4 + b1.toNat * 2 +
      b0.toNat := by
  rw [bitsByte, BitVec.toNat_ofNat]
  have := b7.toNat_le; have := b6.toNat_le; have := b5.toNat_le; have := b4.toNat_le
  have := b3.toNat_le; have := b2.toNat_le; have := b1.toNat_le; have := b0.toNat_le
  omega

theorem bitsByte_getLsbD (b : Byte) :
    bitsByte (b.getLsbD 7) (b.getLsbD 6) (b.getLsbD 5) (b.getLsbD 4) (b.getLsbD 3) (b.getLsbD 2) (b.getLsbD 1)
      (b.getLsbD 0) = b := by
  refine BitVec.eq_of_toNat_eq ?_
  simp only [bitsByte_toNat, getLsbD_toNat]
  omega

theorem byteBits_bitsByte (b7 b6 b5 b4 b3 b2 b1 b0 : Bool) :
    byteBits (bitsByte b7 b6 b5 b4 b3 b2 b1 b0) = [b7, b6, b5, b4, b3, b2, b1, b0] := by
  have := b7.toNat_le; have := b6.toNat_le; have := b5.toNat_le; have := b4.toNat_le
  have := b3.toNat_le; have := b2.toNat_le; have := b1.toNat_le; have := b0.toNat_le
  apply List.map_injective_iff.mpr (Bool.injective_iff.mpr Nat.zero_ne_one : Function.Injective Bool.toNat)
  simp only [byteBits, List.map_cons, List.map_nil, getLsbD_toNat, bitsByte_toNat, List.cons.injEq, and_true]
  omega

theorem packBytes_unpackBits (b : List Byte) : packBytes (unpackBits b) = b := by
  induction b with
  | nil => rfl
  | cons x b ih =>
    calc packBytes (unpackBits (x :: b))
      _ = bitsByte (x.getLsbD 7) (x.getLsbD 6) (x.getLsbD 5) (x.getLsbD 4) (x.getLsbD 3) (x.getLsbD 2) (x.getLsbD 1)
            (x.getLsbD 0) :: packBytes (unpackBits b) := rfl
      _ = x :: b := by rw [bitsByte_getLsbD, ih]

theorem unpackBits_packBytes (bits : BitStr) (h : bits.length % 8 = 0) : unpackBits (packBytes bits) = bits := by
  induction bits using packBytes.induct with
  | case1 b7 b6 b5 b4 b3 b2 b1 b0 rest ih =>
    have hrest : rest.length % 8 = 0 := by simp only [List.length_cons] at h; omega
    rw [packBytes, unpackBits, List.flatMap_cons, byteBits_bitsByte, ← unpackBits, ih hrest]
    rfl
  | case2 bits hshort =>
    have hlen := packBytes_length bits
    rw [packBytes.eq_2 bits hshort] at hlen ⊢
    have hnil : bits = [] := List.eq_nil_of_length_eq_zero (by rw [List.length_nil] at hlen; omega)
    rw [hnil]
    rfl

end BitsAndBytes

/-! ### The obligations -/

/-- Settles O7: the map of the listed pairs is canonical, and with unique keys none of them is lost. -/
theorem hostLoadFrequencyTable : Obligations.HostLoadFrequencyTable :=
  fun _ _ v h hk hc =>
    ⟨SymMap.ofList v, step_of_load_within h (hostLoad_counts hk) hc, SymMap.wf_ofList v, SymMap.ofList_perm v hk⟩

/-- Settles O33. -/
theorem packingInvertsUnpacking : Obligations.PackingInvertsUnpacking :=
  ⟨packBytes_unpackBits, unpackBits_packBytes⟩

/-- Settles O6: the value is of the store's type, so only the capacity is checked. -/
theorem hostLoadReplacesOneStore : Obligations.HostLoadReplacesOneStore := by
  intro s rest
  refine ⟨?_, ?_, ?_, ?_, ?_⟩ <;> exact fun _ h hc => step_of_load_within h rfl hc

/-- Settles O9: every store but TREE answers its own value. -/
theorem hostReadReturnsStore : Obligations.HostReadReturnsStore := by
  intro s rest st h hst
  rw [step_of_read h]
  cases st with
  | tree => exact absurd rfl hst
  | _ => rfl

/-- Settles O34. -/
theorem bigEndianWords : Obligations.BigEndianWords :=
  ⟨be32Bytes_toNat, be32_toNat, be32At_be32Bytes⟩

end Sys2Proof.Machine

/-! PROOFS of the family 30_encoding.md: command words, the container, UTF-8, and the tree text with its parser. -/

namespace Sys2Proof.Machine

/-! ### Command words (R70 to R72) -/

section CommandWords

/-- A word of format C is its `op` field and nothing else. -/
theorem eq_setWidth_opField_of_formatC {w : Word} (h : formatC w = true) : w = (opField w).setWidth 32 := by
  have hzero : w.toNat / 256 = 0 := by
    simpa [Nat.shiftRight_eq_div_pow, Nat.mod_eq_of_lt (show w.toNat / 256 < 16777216 by omega)] using
      congrArg BitVec.toNat (eq_of_beq h)
  refine BitVec.eq_of_toNat_eq ?_
  simp only [opField, BitVec.toNat_setWidth, BitVec.extractLsb'_toNat, Nat.shiftRight_zero]
  omega

theorem formatC_encode (i : Instr) : formatC (encode i) = true := by
  cases i <;> rfl

/-- The code table of R71 read from the code to the command. -/
theorem opField_encode_of_decodeOp {op : Byte} {i : Instr} (h : decodeOp op = some i) : op = opField (encode i) := by
  simp only [decodeOp, ite_eq_iff, Option.some.injEq] at h
  iterate 14
    rcases h with ⟨hop, rfl⟩ | ⟨-, h⟩
    · exact hop
  cases h

theorem decode_ok {w : Word} {i : Instr} (h : decode w = .ok i) :
    formatC w = true ∧ decodeOp (opField w) = some i := by
  unfold decode at h
  split at h
  · next hf =>
    split at h
    · next hop => cases h; exact ⟨hf, hop⟩
    · cases h
  · cases h

/-- The two fields of a word fix it, and a command fixes both. -/
theorem eq_encode_of_decode {w : Word} {i : Instr} (h : decode w = .ok i) : w = encode i := by
  obtain ⟨hf, hop⟩ := decode_ok h
  calc w
    _ = (opField w).setWidth 32 := eq_setWidth_opField_of_formatC hf
    _ = (opField (encode i)).setWidth 32 := by rw [opField_encode_of_decodeOp hop]
    _ = encode i := (eq_setWidth_opField_of_formatC (formatC_encode i)).symm

end CommandWords

/-- Settles O2: format C and the code in `op` fix the word. -/
theorem decodeExactlyEncode : Obligations.DecodeExactlyEncode :=
  fun _ i => ⟨eq_encode_of_decode, fun h => h ▸ decode_encode i⟩

/-- Settles O1: each word is its command's. -/
theorem commandWordsDecode : Obligations.CommandWordsDecode :=
  ⟨decode_encode .clear, decode_encode .analyze, decode_encode .build, decode_encode .tser, decode_encode .tdes,
    decode_encode .gencodes, decode_encode .buildtxt, decode_encode .mapbits, decode_encode .pack,
    decode_encode .assemble, decode_encode .encode, decode_encode .parse, decode_encode .unpack,
    decode_encode .decode⟩

/-! ### The container (R81) -/

section Container

variable {pad : Byte} {olen : Word} {tree pay : List Byte}

theorem container_eq (ver : Byte) : container ver pad olen tree pay =
    (magicBytes ++ [ver, pad] ++ be32Bytes olen ++ be32Bytes (BitVec.ofNat 32 tree.length)) ++ (tree ++ pay) := by
  simp [container]

theorem be32At_container_olen (ver : Byte) : be32At (container ver pad olen tree pay) 6 = olen :=
  be32At_be32Bytes olen

theorem be32At_container_tlen (ver : Byte) :
    be32At (container ver pad olen tree pay) 10 = BitVec.ofNat 32 tree.length :=
  be32At_be32Bytes (BitVec.ofNat 32 tree.length)

/-- The header is 14 bytes, and the tree segment ends where its length says. -/
theorem parseContainer_container (hpad : pad.toNat ≤ 7) (hlen : tree.length < 4294967296) :
    parseContainer (container 1#8 pad olen tree pay) =
      .ok ⟨tree, pay, 1#32, pad.setWidth 32, olen, BitVec.ofNat 32 tree.length⟩ := by
  have htlen : (be32At (container 1#8 pad olen tree pay) 10).toNat = tree.length := by
    rw [be32At_container_tlen, BitVec.toNat_ofNat, Nat.mod_eq_of_lt hlen]
  have hdrop : (container 1#8 pad olen tree pay).drop 14 = tree ++ pay := by
    rw [container_eq]; rfl
  have hsize : (container 1#8 pad olen tree pay).length = 14 + (tree.length + pay.length) := by
    rw [container_eq, List.length_append, List.length_append (as := tree)]; rfl
  refine parseContainer_ok.mpr ⟨by omega, rfl, rfl, hpad, by omega, ?_⟩
  rw [htlen, be32At_container_olen, be32At_container_tlen, ← List.drop_drop, hdrop, List.take_left, List.drop_left]
  rfl

end Container

/-- Settles O41: the container passes the five checks, and its slices are its parts. -/
theorem parseRecoversContainer : Obligations.ParseRecoversContainer := by
  intro s pad olen tree pay h hpad hlen
  have hparts := parseContainer_container (olen := olen) (pay := pay) hpad hlen
  rw [exec, execParse, stageParse_ok.mpr ⟨_, h ▸ hparts, rfl⟩]
  rfl


/-! ### UTF-8 (R91) -/

section Utf8

variable {n v : Nat} {b b0 b1 b2 b3 : Byte} {c : Symbol} {r rest : List Byte}

/-- A scalar value is below 0xD800 or in 0xE000 to 0x10FFFF (R6). -/
theorem scalar_bounds (c : Symbol) : c.toNat < 0xD800 ∨ (0xDFFF < c.toNat ∧ c.toNat < 0x110000) :=
  c.valid

theorem scalar?_eq_some : scalar? n = some c ↔ c.toNat = n := by
  unfold scalar?
  split
  · next h =>
    have hn : (Char.ofNat n).toNat = n := (Char.toNat_ofNat n).trans (if_pos h)
    rw [Option.some.injEq]
    exact ⟨fun hc => hc ▸ hn, fun hc => hc ▸ Char.ofNat_toNat c⟩
  · next h => exact ⟨nofun, fun hc => absurd (hc ▸ scalar_bounds c) h⟩

theorem map_scalar?_eq_some : ((scalar? n).map fun c => (c, r)) = some (c, rest) ↔ c.toNat = n ∧ r = rest := by
  simp [scalar?_eq_some, ← and_assoc]

theorem contBits_eq_some : contBits b = some v ↔ v < 64 ∧ b.toNat = 0x80 + v := by
  unfold contBits
  split
  · rw [Option.some.injEq]; omega
  · simp only [reduceCtorEq, false_iff]; omega

theorem eq_ofNat_of_toNat (h : b.toNat = n) : b = BitVec.ofNat 8 n := by
  rw [← h, BitVec.ofNat_toNat, BitVec.setWidth_eq]

/-! The table of R91, one row per length: the bytes' values give the symbol's bytes. -/

theorem utf8_one (h : c.toNat = b0.toNat) (hn : c.toNat < 0x80) : utf8 c = [b0] := by
  rw [utf8, if_pos hn, eq_ofNat_of_toNat h.symm]

theorem utf8_two (h0 : b0.toNat = 0xC0 + c.toNat / 64) (h1 : b1.toNat = 0x80 + c.toNat % 64)
    (hlo : 0x80 ≤ c.toNat) (hhi : c.toNat < 0x800) : utf8 c = [b0, b1] := by
  rw [utf8, if_neg (by omega), if_pos hhi, ← eq_ofNat_of_toNat h0, ← eq_ofNat_of_toNat h1]

theorem utf8_three (h0 : b0.toNat = 0xE0 + c.toNat / 4096) (h1 : b1.toNat = 0x80 + c.toNat / 64 % 64)
    (h2 : b2.toNat = 0x80 + c.toNat % 64) (hlo : 0x800 ≤ c.toNat) (hhi : c.toNat < 0x10000) :
    utf8 c = [b0, b1, b2] := by
  rw [utf8, if_neg (by omega), if_neg (by omega), if_pos hhi, ← eq_ofNat_of_toNat h0, ← eq_ofNat_of_toNat h1,
    ← eq_ofNat_of_toNat h2]

theorem utf8_four (h0 : b0.toNat = 0xF0 + c.toNat / 262144) (h1 : b1.toNat = 0x80 + c.toNat / 4096 % 64)
    (h2 : b2.toNat = 0x80 + c.toNat / 64 % 64) (h3 : b3.toNat = 0x80 + c.toNat % 64) (hlo : 0x10000 ≤ c.toNat) :
    utf8 c = [b0, b1, b2, b3] := by
  rw [utf8, if_neg (by omega), if_neg (by omega), if_neg (by omega), ← eq_ofNat_of_toNat h0, ← eq_ofNat_of_toNat h1,
    ← eq_ofNat_of_toNat h2, ← eq_ofNat_of_toNat h3]

/-! The decoder, one row per lead byte: it reads `c` exactly when the bytes have the values of `c`'s row. -/

theorem utf8Decode_one (h : b0.toNat < 0x80) :
    utf8Decode (b0 :: r) = some (c, rest) ↔ c.toNat = b0.toNat ∧ r = rest := by
  have hread : utf8Decode (b0 :: r) = (scalar? b0.toNat).map fun c => (c, r) := if_pos h
  rw [hread, map_scalar?_eq_some]

theorem utf8Decode_two (hlo : 0xC0 ≤ b0.toNat) (hhi : b0.toNat < 0xE0) :
    utf8Decode (b0 :: b1 :: r) = some (c, rest) ↔
      (b0.toNat = 0xC0 + c.toNat / 64 ∧ b1.toNat = 0x80 + c.toNat % 64 ∧ 0x80 ≤ c.toNat) ∧ r = rest := by
  rw [utf8Decode, if_neg (by omega), if_neg (by omega), if_pos hhi]
  simp only [Option.bind_eq_bind, Option.bind_eq_some_iff, contBits_eq_some, Option.ite_none_left_eq_some,
    map_scalar?_eq_some]
  constructor
  · rintro ⟨v1, ⟨hv1, h1⟩, hmin, hc, hr⟩
    exact ⟨by omega, hr⟩
  · rintro ⟨⟨h0, h1, hmin⟩, hr⟩
    exact ⟨c.toNat % 64, by omega, by omega, by omega, hr⟩

theorem utf8Decode_three (hlo : 0xE0 ≤ b0.toNat) (hhi : b0.toNat < 0xF0) :
    utf8Decode (b0 :: b1 :: b2 :: r) = some (c, rest) ↔
      (b0.toNat = 0xE0 + c.toNat / 4096 ∧ b1.toNat = 0x80 + c.toNat / 64 % 64 ∧ b2.toNat = 0x80 + c.toNat % 64 ∧
        0x800 ≤ c.toNat) ∧ r = rest := by
  rw [utf8Decode, if_neg (by omega), if_neg (by omega), if_neg (by omega), if_pos hhi]
  simp only [Option.bind_eq_bind, Option.bind_eq_some_iff, contBits_eq_some, Option.ite_none_left_eq_some,
    map_scalar?_eq_some]
  constructor
  · rintro ⟨v1, ⟨hv1, h1⟩, v2, ⟨hv2, h2⟩, hmin, hc, hr⟩
    exact ⟨by omega, hr⟩
  · rintro ⟨⟨h0, h1, h2, hmin⟩, hr⟩
    exact ⟨c.toNat / 64 % 64, by omega, c.toNat % 64, by omega, by omega, by omega, hr⟩

theorem utf8Decode_four (hlo : 0xF0 ≤ b0.toNat) (hhi : b0.toNat < 0xF8) :
    utf8Decode (b0 :: b1 :: b2 :: b3 :: r) = some (c, rest) ↔
      (b0.toNat = 0xF0 + c.toNat / 262144 ∧ b1.toNat = 0x80 + c.toNat / 4096 % 64 ∧
        b2.toNat = 0x80 + c.toNat / 64 % 64 ∧ b3.toNat = 0x80 + c.toNat % 64 ∧ 0x10000 ≤ c.toNat) ∧ r = rest := by
  rw [utf8Decode, if_neg (by omega), if_neg (by omega), if_neg (by omega), if_neg (by omega), if_pos hhi]
  simp only [Option.bind_eq_bind, Option.bind_eq_some_iff, contBits_eq_some, Option.ite_none_left_eq_some,
    map_scalar?_eq_some]
  constructor
  · rintro ⟨v1, ⟨hv1, h1⟩, v2, ⟨hv2, h2⟩, v3, ⟨hv3, h3⟩, hmin, hc, hr⟩
    exact ⟨by omega, hr⟩
  · rintro ⟨⟨h0, h1, h2, h3, hmin⟩, hr⟩
    exact ⟨c.toNat / 4096 % 64, by omega, c.toNat / 64 % 64, by omega, c.toNat % 64, by omega, by omega, by omega, hr⟩

/-- A text that decodes begins with a lead byte and as many bytes more as its row has. -/
theorem utf8Decode_shape {b : List Byte} (h : utf8Decode b = some (c, rest)) :
    (∃ b0 r, b = b0 :: r ∧ b0.toNat < 0x80) ∨
    (∃ b0 b1 r, b = b0 :: b1 :: r ∧ 0xC0 ≤ b0.toNat ∧ b0.toNat < 0xE0) ∨
    (∃ b0 b1 b2 r, b = b0 :: b1 :: b2 :: r ∧ 0xE0 ≤ b0.toNat ∧ b0.toNat < 0xF0) ∨
    (∃ b0 b1 b2 b3 r, b = b0 :: b1 :: b2 :: b3 :: r ∧ 0xF0 ≤ b0.toNat ∧ b0.toNat < 0xF8) := by
  unfold utf8Decode at h
  split at h
  · cases h
  next b0 r =>
  split_ifs at h with h1 h2 h3 h4 h5
  · exact .inl ⟨b0, r, rfl, h1⟩
  · split at h
    · next b1 r => exact .inr (.inl ⟨b0, b1, r, rfl, by omega, h3⟩)
    · cases h
  · split at h
    · next b1 b2 r => exact .inr (.inr (.inl ⟨b0, b1, b2, r, rfl, by omega, h4⟩))
    · cases h
  · split at h
    · next b1 b2 b3 r => exact .inr (.inr (.inr ⟨b0, b1, b2, b3, r, rfl, by omega, h5⟩))
    · cases h

/-- Strictness: the value a sequence is read as has that sequence as its encoding. -/
theorem eq_utf8_append_of_utf8Decode {b : List Byte} (h : utf8Decode b = some (c, rest)) : b = utf8 c ++ rest := by
  rcases utf8Decode_shape h with ⟨b0, r, rfl, hhi⟩ | ⟨b0, b1, r, rfl, hlo, hhi⟩ | ⟨b0, b1, b2, r, rfl, hlo, hhi⟩ |
    ⟨b0, b1, b2, b3, r, rfl, hlo, hhi⟩
  · obtain ⟨h0, rfl⟩ := (utf8Decode_one hhi).mp h
    rw [utf8_one h0 (by omega)]; rfl
  · obtain ⟨⟨h0, h1, hmin⟩, rfl⟩ := (utf8Decode_two hlo hhi).mp h
    rw [utf8_two h0 h1 hmin (by omega)]; rfl
  · obtain ⟨⟨h0, h1, h2, hmin⟩, rfl⟩ := (utf8Decode_three hlo hhi).mp h
    rw [utf8_three h0 h1 h2 hmin (by omega)]; rfl
  · obtain ⟨⟨h0, h1, h2, h3, hmin⟩, rfl⟩ := (utf8Decode_four hlo hhi).mp h
    rw [utf8_four h0 h1 h2 h3 hmin]; rfl

theorem toNat_ofNat_byte (h : n < 256) : (BitVec.ofNat 8 n).toNat = n := by
  rw [BitVec.toNat_ofNat, Nat.mod_eq_of_lt h]

/-- The decoder reads every scalar value from its encoding. -/
theorem utf8Decode_utf8_append (c : Symbol) (rest : List Byte) : utf8Decode (utf8 c ++ rest) = some (c, rest) := by
  have hmax := scalar_bounds c
  have hbyte := @toNat_ofNat_byte
  rw [utf8]
  split_ifs with h1 h2 h3
  · exact (utf8Decode_one (by rw [hbyte (by omega)]; omega)).mpr ⟨by rw [hbyte (by omega)], rfl⟩
  · refine (utf8Decode_two ?_ ?_).mpr ⟨⟨?_, ?_, by omega⟩, rfl⟩ <;> rw [hbyte (by omega)] <;> omega
  · refine (utf8Decode_three ?_ ?_).mpr ⟨⟨?_, ?_, ?_, by omega⟩, rfl⟩ <;> rw [hbyte (by omega)] <;> omega
  · refine (utf8Decode_four ?_ ?_).mpr ⟨⟨?_, ?_, ?_, ?_, by omega⟩, rfl⟩ <;> rw [hbyte (by omega)] <;> omega

end Utf8

/-- Settles O25, row by row of the table of R91. -/
theorem utf8Strict : Obligations.Utf8Strict :=
  fun _ rest c => ⟨eq_utf8_append_of_utf8Decode, fun h => h ▸ utf8Decode_utf8_append c rest⟩


/-! ### Fixed pieces of text -/

section FixedText

variable {p b rest : List Byte}

@[simp] theorem strip_append (p b : List Byte) : strip p (p ++ b) = some b := by
  induction p with
  | nil => rfl
  | cons x p ih => rw [List.cons_append, strip, if_pos rfl, ih]

theorem strip_eq_some : strip p b = some rest ↔ b = p ++ rest := by
  refine ⟨fun h => ?_, fun h => h ▸ strip_append p rest⟩
  induction p, b using strip.induct with
  | case1 b => exact Option.some.inj h
  | case2 x p => cases h
  | case3 p y b ih => rw [strip, if_pos rfl] at h; rw [ih h]; rfl
  | case4 x p y b hne => rw [strip, if_neg hne] at h; cases h

theorem parseFlag_append {w : List Byte} (h : FlagText w) (b : List Byte) : parseFlag (w ++ b) = some b := by
  rcases h with rfl | rfl
  · rw [parseFlag, strip_append]
  · rfl

theorem eq_append_of_parseFlag (h : parseFlag b = some rest) : ∃ w, FlagText w ∧ b = w ++ rest := by
  unfold parseFlag at h
  split at h
  · next hw => cases h; exact ⟨txtTrue, .inl rfl, strip_eq_some.mp hw⟩
  · exact ⟨txtFalse, .inr rfl, strip_eq_some.mp h⟩

end FixedText

/-! ### Decimal numbers (R86) -/

section Decimal

variable {n d : Nat} {f : Count} {x : Byte} {b u rest : List Byte}

/-- The byte is an ASCII digit. -/
def isDigit (b : Byte) : Bool := decide (48 ≤ b.toNat ∧ b.toNat ≤ 57)

/-- The value of `b`'s digits read after a number `n`. -/
def decimalFrom (n : Nat) (b : List Byte) : Nat := b.foldl (fun n d => n * 10 + (d.toNat - 48)) n

/-- `UintText` for a number of any size. -/
def DecimalText (n : Nat) (b : List Byte) : Prop :=
  b ≠ [] ∧ (∀ d ∈ b, isDigit d = true) ∧ (b.head? = some 0x30#8 → b.length = 1) ∧ decimalValue b = n

theorem uintText_iff : UintText f u ↔ DecimalText f.toNat u := by
  simp only [UintText, DecimalText, isDigit, decide_eq_true_eq]

/-- A leading zero stands alone. -/
theorem DecimalText.of_leading_zero (h : DecimalText n (0x30#8 :: b)) : b = [] ∧ n = 0 := by
  obtain ⟨-, -, hzero, hval⟩ := h
  have hnil : b = [] := List.eq_nil_of_length_eq_zero (Nat.succ.inj (hzero rfl))
  rw [hnil] at hval
  exact ⟨hnil, hval.symm⟩

theorem digitVal_eq (b : Byte) : digitVal b = if isDigit b then some (b.toNat - 48) else none := by
  simp only [digitVal, isDigit, decide_eq_true_eq]

/-- The digits a text begins with are all taken. -/
theorem takeDigits_eq (b : List Byte) (n : Nat) :
    takeDigits b n = (decimalFrom n (b.takeWhile isDigit), b.dropWhile isDigit) := by
  induction b generalizing n with
  | nil => rfl
  | cons x b ih =>
    rw [takeDigits, digitVal_eq, List.takeWhile_cons, List.dropWhile_cons]
    cases isDigit x with
    | true => exact ih _
    | false => rfl

theorem parseUint_zero (b : List Byte) : parseUint (0x30#8 :: b) = some (0#32, b) := rfl

/-- After a first digit that is not 0, the digits up to the first other byte are the number. -/
theorem parseUint_cons (hx : isDigit x = true) (h0 : x ≠ 0x30#8) : parseUint (x :: b) =
    if decimalValue (x :: b.takeWhile isDigit) < 4294967296 then
      some (BitVec.ofNat 32 (decimalValue (x :: b.takeWhile isDigit)), b.dropWhile isDigit)
    else none := by
  have hd : x.toNat - 48 ≠ 0 := by
    have hrange : 48 ≤ x.toNat ∧ x.toNat ≤ 57 := of_decide_eq_true hx
    have hne : x.toNat ≠ 48 := fun h => h0 (BitVec.eq_of_toNat_eq h)
    omega
  have hval : decimalValue (x :: b.takeWhile isDigit) = decimalFrom (x.toNat - 48) (b.takeWhile isDigit) := by
    simp [decimalValue, decimalFrom]
  rw [parseUint, digitVal_eq, if_pos hx, hval]
  dsimp only
  rw [if_neg hd, takeDigits_eq]

theorem eq_append_of_parseUint (h : parseUint b = some (f, rest)) : ∃ u, UintText f u ∧ b = u ++ rest := by
  cases b with
  | nil => cases h
  | cons x b =>
    by_cases hx : isDigit x = true
    · by_cases h0 : x = 0x30#8
      · subst h0
        rw [parseUint_zero] at h
        cases h
        exact ⟨[0x30#8], ⟨by decide, by decide, fun _ => rfl, rfl⟩, rfl⟩
      · rw [parseUint_cons hx h0, Option.ite_none_right_eq_some] at h
        obtain ⟨hlt, h⟩ := h
        cases h
        refine ⟨x :: b.takeWhile isDigit, uintText_iff.mpr ⟨List.cons_ne_nil _ _, ?_, ?_, ?_⟩, ?_⟩
        · exact List.forall_mem_cons.mpr ⟨hx, fun _ => List.mem_takeWhile_imp⟩
        · exact fun hhead => absurd (Option.some.inj hhead) h0
        · rw [BitVec.toNat_ofNat, Nat.mod_eq_of_lt hlt]
        · rw [List.cons_append, List.takeWhile_append_dropWhile]
    · rw [parseUint, digitVal_eq, if_neg hx] at h
      cases h

/-- A number is read to its last digit when no digit follows it. -/
theorem parseUint_append (hu : UintText f u) (hx : isDigit x = false) :
    parseUint (u ++ x :: rest) = some (f, x :: rest) := by
  obtain ⟨hne, hdigits, -, hval⟩ := uintText_iff.mp hu
  cases u with
  | nil => exact absurd rfl hne
  | cons y u =>
    obtain ⟨hy, hdigits⟩ := List.forall_mem_cons.mp hdigits
    by_cases h0 : y = 0x30#8
    · subst h0
      obtain ⟨rfl, hf⟩ := (uintText_iff.mp hu).of_leading_zero
      rw [show f = 0#32 from BitVec.eq_of_toNat_eq hf]
      exact parseUint_zero _
    · have htake : (u ++ x :: rest).takeWhile isDigit = u := by
        rw [List.takeWhile_append_of_pos hdigits, List.takeWhile_cons_of_neg (by simp [hx]), List.append_nil]
      have hdrop : (u ++ x :: rest).dropWhile isDigit = x :: rest := by
        rw [List.dropWhile_append_of_pos hdigits, List.dropWhile_cons_of_neg (by simp [hx])]
      rw [List.cons_append, parseUint_cons hy h0, htake, hdrop, hval, if_pos f.isLt, BitVec.ofNat_toNat,
        BitVec.setWidth_eq]

theorem digitByte_toNat (h : d < 10) : (digitByte d).toNat = 48 + d := by
  rw [digitByte, toNat_ofNat_byte (by omega)]

theorem isDigit_digitByte (h : d < 10) : isDigit (digitByte d) = true := by
  rw [isDigit, digitByte_toNat h, decide_eq_true_eq]
  omega

theorem decimalText_digit (h : d < 10) : DecimalText d [digitByte d] := by
  refine ⟨List.cons_ne_nil _ _, by simpa using isDigit_digitByte h, fun _ => rfl, ?_⟩
  simp [decimalValue, digitByte_toNat h]

/-- One more digit after a number that is not 0. -/
theorem decimalText_snoc (hn : n ≠ 0) (hb : DecimalText n b) (h : d < 10) :
    DecimalText (n * 10 + d) (b ++ [digitByte d]) := by
  have htext := hb
  obtain ⟨hne, hdigits, -, hval⟩ := hb
  refine ⟨by simp, ?_, fun hhead => absurd ?_ hn, ?_⟩
  · exact List.forall_mem_append.mpr ⟨hdigits, by simpa using isDigit_digitByte h⟩
  · cases b with
    | nil => exact absurd rfl hne
    | cons x b =>
      rw [show x = 0x30#8 from Option.some.inj hhead] at htext
      exact htext.of_leading_zero.2
  · rw [decimalValue, List.foldl_append, ← decimalValue, hval]
    simp [digitByte_toNat h]

/-- With one digit of fuel per place the digits are all there. -/
theorem decDigits_succ_eq (fuel n : Nat) (acc : List Byte) (h : n < 10 ^ (fuel + 1)) :
    ∃ b, DecimalText n b ∧ decDigits (fuel + 1) n acc = b ++ acc := by
  induction fuel generalizing n acc with
  | zero => exact ⟨[digitByte n], decimalText_digit h, if_pos h⟩
  | succ fuel ih =>
    rw [decDigits]
    split
    · next hn => exact ⟨[digitByte n], decimalText_digit hn, rfl⟩
    · next hn =>
      obtain ⟨b, hb, heq⟩ := ih (n / 10) (digitByte (n % 10) :: acc) (by rw [pow_succ] at h; omega)
      refine ⟨b ++ [digitByte (n % 10)], ?_, by rw [heq, List.append_assoc]; rfl⟩
      have hsnoc := decimalText_snoc (by omega) hb (Nat.mod_lt n (by omega : 10 > 0))
      rwa [Nat.div_add_mod'] at hsnoc

/-- `dec(v)` is the number's text: a 32-bit value has at most ten digits. -/
theorem uintText_dec (v : Count) : UintText v (dec v) := by
  obtain ⟨b, hb, heq⟩ := decDigits_succ_eq 9 v.toNat [] (by omega)
  rw [dec, heq, List.append_nil]
  exact uintText_iff.mpr hb

end Decimal

/-! ### Symbols and their escapes (R87) -/

section SymbolText

variable {v : Nat} {x : Byte} {b rest : List Byte} {c : Symbol} {s : Option Symbol}

theorem hexVal_eq_some : hexVal x = some v ↔ v < 16 ∧ x = hexByte v := by
  have hbyte : x = hexByte v ↔ x.toNat = if v < 10 then (48 + v) % 256 else (87 + v) % 256 := by
    rw [← BitVec.toNat_inj, hexByte, apply_ite BitVec.toNat, BitVec.toNat_ofNat, BitVec.toNat_ofNat]
  rw [hbyte, hexVal]
  split_ifs <;> simp only [Option.some.injEq, false_iff] <;> omega

/-- The symbols R87 writes with a backslash. -/
def Escaped (c : Symbol) : Prop := c.toNat < 0x20 ∨ c.toNat = 0x22 ∨ c.toNat = 0x5C

theorem esc_of_not_escaped (h : ¬ Escaped c) : esc c = utf8 c := by
  obtain ⟨hlow, hquote, hslash⟩ : ¬ c.toNat < 0x20 ∧ c.toNat ≠ 0x22 ∧ c.toNat ≠ 0x5C := by
    simpa only [Escaped, not_or] using h
  rw [esc, if_neg hquote, if_neg hslash, if_neg hlow]

theorem esc_of_lt (h : c.toNat < 0x20) :
    esc c = txtU00 ++ [hexByte (c.toNat / 16), hexByte (c.toNat % 16)] := by
  rw [esc, if_neg (by omega), if_neg (by omega), if_pos h]

theorem strip_slash_esc (h : Escaped c) (b : List Byte) : ∃ r, strip [0x5C#8] (esc c ++ b) = some r := by
  unfold esc
  split_ifs with hquote hslash hlow
  · exact ⟨_, rfl⟩
  · exact ⟨_, rfl⟩
  · exact ⟨_, rfl⟩
  · exact absurd h (by simp only [Escaped]; omega)

/-- Only the backslash itself has an encoding that begins with its byte. -/
theorem strip_slash_utf8 (h : c.toNat ≠ 0x5C) (b : List Byte) : strip [0x5C#8] (utf8 c ++ b) = none := by
  have hmax := scalar_bounds c
  have hne : ∀ n, n < 256 → n ≠ 0x5C → ∀ r, strip [0x5C#8] (BitVec.ofNat 8 n :: r) = none := by
    intro n hn h5C r
    exact if_neg fun heq => h5C (by rw [← toNat_ofNat_byte hn, ← heq]; rfl)
  unfold utf8
  split_ifs <;> exact hne _ (by omega) (by omega) _

theorem parseEscape_esc_append (h : Escaped c) (b : List Byte) : parseEscape (esc c ++ b) = some (c, b) := by
  rcases h with hlow | hquote | hslash
  · have hhi : hexVal (hexByte (c.toNat / 16)) = some (c.toNat / 16) := hexVal_eq_some.mpr ⟨by omega, rfl⟩
    have hlo : hexVal (hexByte (c.toNat % 16)) = some (c.toNat % 16) := hexVal_eq_some.mpr ⟨by omega, rfl⟩
    have hstrip : parseEscape (esc c ++ b) = (do
        let hi ← hexVal (hexByte (c.toNat / 16))
        let lo ← hexVal (hexByte (c.toNat % 16))
        if hi < 2 then some (Char.ofNat (hi * 16 + lo), b) else none) := by rw [esc_of_lt hlow]; rfl
    rw [hstrip, hhi, hlo]
    simp only [Option.bind_eq_bind, Option.bind_some]
    rw [if_pos (by omega), Nat.div_add_mod', Char.ofNat_toNat]
  · have hc : c = '"' := Char.toNat_inj.mp hquote
    rw [hc]; rfl
  · have hc : c = '\\' := Char.toNat_inj.mp hslash
    rw [hc]; rfl

theorem eq_esc_append_of_parseEscape (h : parseEscape b = some (c, rest)) : Escaped c ∧ b = esc c ++ rest := by
  unfold parseEscape at h
  split at h
  · next hb => cases h; exact ⟨.inr (.inl rfl), strip_eq_some.mp hb⟩
  split at h
  · next hb => cases h; exact ⟨.inr (.inr rfl), strip_eq_some.mp hb⟩
  split at h
  · next x y r hb =>
    simp only [Option.bind_eq_bind, Option.bind_eq_some_iff, hexVal_eq_some, Option.ite_none_right_eq_some,
      Option.some.injEq, Prod.mk.injEq] at h
    obtain ⟨hi, ⟨-, rfl⟩, lo, ⟨hlo, rfl⟩, hhi, rfl, rfl⟩ := h
    have hc : (Char.ofNat (hi * 16 + lo)).toNat = hi * 16 + lo :=
      (Char.toNat_ofNat _).trans (if_pos (.inl (by omega)))
    refine ⟨.inl (by omega), (strip_eq_some.mp hb).trans ?_⟩
    rw [esc_of_lt (by omega), hc, show (hi * 16 + lo) / 16 = hi by omega, show (hi * 16 + lo) % 16 = lo by omega]
    rfl
  · cases h

theorem parseChar_esc_append (c : Symbol) (b : List Byte) : parseChar (esc c ++ b) = some (c, b) := by
  by_cases h : Escaped c
  · obtain ⟨r, hr⟩ := strip_slash_esc h b
    rw [parseChar, hr]
    exact parseEscape_esc_append h b
  · rw [parseChar, esc_of_not_escaped h, strip_slash_utf8 fun hc => h (.inr (.inr hc))]
    simp only [utf8Decode_utf8_append, Option.bind_eq_bind, Option.bind_some]
    exact if_neg h

theorem eq_esc_append_of_parseChar (h : parseChar b = some (c, rest)) : b = esc c ++ rest := by
  unfold parseChar at h
  split at h
  · exact (eq_esc_append_of_parseEscape h).2
  · simp only [Option.bind_eq_bind, Option.bind_eq_some_iff, Prod.exists, Option.ite_none_left_eq_some,
      Option.some.injEq, Prod.mk.injEq] at h
    obtain ⟨c', r, hdec, hraw, rfl, rfl⟩ := h
    rw [esc_of_not_escaped hraw]
    exact eq_utf8_append_of_utf8Decode hdec

theorem parseSymval_symtext_append (s : Option Symbol) (b : List Byte) :
    parseSymval (symtext s ++ b) = some (s, b) := by
  cases s with
  | none => rw [symtext, parseSymval, strip_append]
  | some c =>
    have hnull : strip txtNull (symtext (some c) ++ b) = none := rfl
    rw [parseSymval, hnull]
    simp only [symtext, List.append_assoc, strip_append, parseChar_esc_append, Option.bind_eq_bind, Option.bind_some]

theorem eq_symtext_append_of_parseSymval (h : parseSymval b = some (s, rest)) : b = symtext s ++ rest := by
  unfold parseSymval at h
  split at h
  · next hb => cases h; exact strip_eq_some.mp hb
  · simp only [Option.bind_eq_bind, Option.bind_eq_some_iff, Prod.exists, Option.some.injEq, Prod.mk.injEq,
      strip_eq_some] at h
    obtain ⟨b', rfl, c, r, hchar, r', rfl, rfl, rfl⟩ := h
    rw [eq_esc_append_of_parseChar hchar]
    simp only [symtext, List.append_assoc]

end SymbolText

/-! ### Nodes (R84, R85) -/

section Nodes

variable {fuel : Nat} {f : Count} {s : Option Symbol} {t l r : HuffTree} {b rest key : List Byte}
  {parse : List Byte → Option (HuffTree × List Byte)}

/-- The text of a node from the texts of its parts. -/
def nodeBytes (u : List Byte) (s : Option Symbol) (w ml mr : List Byte) : List Byte :=
  txtFrequency ++ u ++ txtSymbol ++ symtext s ++ txtIsLeaf ++ w ++ ml ++ mr ++ txtClose

/-- A child member of the grammar: nothing for an absent child, else the key and the child's text. -/
def MemberText (key : List Byte) (t : HuffTree) (b : List Byte) : Prop :=
  (t = .absent ∧ b = []) ∨ ∃ x, NodeText t x ∧ b = key ++ x

theorem memberText_absent (key : List Byte) : MemberText key .absent [] := .inl ⟨rfl, rfl⟩

/-- The four shapes of a node are one, each child being there or not. -/
theorem nodeText_node_iff : NodeText (.node f s l r) b ↔ ∃ u w ml mr, UintText f u ∧ FlagText w ∧
    MemberText txtLeft l ml ∧ MemberText txtRight r mr ∧ b = nodeBytes u s w ml mr := by
  constructor
  · intro h
    cases h with
    | leaf hu hw =>
      exact ⟨_, _, [], [], hu, hw, memberText_absent _, memberText_absent _, by simp [nodeBytes]⟩
    | onlyLeft hu hw hl =>
      exact ⟨_, _, _, [], hu, hw, .inr ⟨_, hl, rfl⟩, memberText_absent _, by simp [nodeBytes]⟩
    | onlyRight hu hw hr =>
      exact ⟨_, _, [], _, hu, hw, memberText_absent _, .inr ⟨_, hr, rfl⟩, by simp [nodeBytes]⟩
    | both hu hw hl hr => exact ⟨_, _, _, _, hu, hw, .inr ⟨_, hl, rfl⟩, .inr ⟨_, hr, rfl⟩, rfl⟩
  · rintro ⟨u, w, ml, mr, hu, hw, ⟨rfl, rfl⟩ | ⟨bl, hl, rfl⟩, ⟨rfl, rfl⟩ | ⟨br, hr, rfl⟩, rfl⟩
    · simpa [nodeBytes] using NodeText.leaf (s := s) hu hw
    · simpa [nodeBytes] using NodeText.onlyRight (s := s) hu hw hr
    · simpa [nodeBytes] using NodeText.onlyLeft (s := s) hu hw hl
    · exact NodeText.both hu hw hl hr

theorem not_nodeText_absent : ¬ NodeText .absent b := nofun

theorem eq_append_of_parseMember (hparse : ∀ {b t rest}, parse b = some (t, rest) → ∃ x, NodeText t x ∧ b = x ++ rest)
    (h : parseMember parse key b = some (t, rest)) : ∃ m, MemberText key t m ∧ b = m ++ rest := by
  unfold parseMember at h
  split at h
  · next b' hkey =>
    obtain ⟨x, hx, rfl⟩ := hparse h
    exact ⟨key ++ x, .inr ⟨x, hx, rfl⟩, by rw [strip_eq_some.mp hkey, List.append_assoc]⟩
  · cases h
    exact ⟨[], memberText_absent key, rfl⟩

/-- A member is read when its child is, and no member where its key does not follow. -/
theorem parseMember_append {m : List Byte} (hm : MemberText key t m) (hkey : strip key rest = none)
    (hparse : ∀ x, NodeText t x → x.length ≤ m.length → parse (x ++ rest) = some (t, rest)) :
    parseMember parse key (m ++ rest) = some (t, rest) := by
  rcases hm with ⟨rfl, rfl⟩ | ⟨x, hx, rfl⟩
  · rw [List.nil_append, parseMember, hkey]
  · rw [parseMember, List.append_assoc, strip_append]
    exact hparse x hx (by simp)

/-- What the parser reads is a node of the grammar. -/
theorem eq_append_of_parseNode (h : parseNode fuel b = some (t, rest)) : ∃ x, NodeText t x ∧ b = x ++ rest := by
  induction fuel generalizing b t rest with
  | zero => cases h
  | succ fuel ih =>
    simp only [parseNode, Option.bind_eq_bind, Option.bind_eq_some_iff, Prod.exists, strip_eq_some,
      Option.some.injEq, Prod.mk.injEq] at h
    obtain ⟨b₁, rfl, f, b₂, hfreq, b₃, rfl, s, b₄, hsym, b₅, rfl, b₆, hflag, l, b₇, hleft, r, b₈, hright, b₉, rfl,
      rfl, rfl⟩ := h
    obtain ⟨u, hu, rfl⟩ := eq_append_of_parseUint hfreq
    obtain ⟨w, hw, rfl⟩ := eq_append_of_parseFlag hflag
    obtain ⟨ml, hml, rfl⟩ := eq_append_of_parseMember ih hleft
    obtain ⟨mr, hmr, rfl⟩ := eq_append_of_parseMember ih hright
    rw [eq_symtext_append_of_parseSymval hsym]
    exact ⟨nodeBytes u s w ml mr, nodeText_node_iff.mpr ⟨u, w, ml, mr, hu, hw, hml, hmr, rfl⟩, by simp [nodeBytes]⟩

/-- No `left` member can stand where the `right` member or the end of the node does. -/
theorem strip_left_right {m : List Byte} (hm : MemberText txtRight t m) (b : List Byte) :
    strip txtLeft (m ++ (txtClose ++ b)) = none := by
  rcases hm with ⟨-, rfl⟩ | ⟨x, -, rfl⟩ <;> rfl

theorem length_nodeBytes (u : List Byte) (s : Option Symbol) (w ml mr : List Byte) :
    ml.length < (nodeBytes u s w ml mr).length ∧ mr.length < (nodeBytes u s w ml mr).length := by
  have hfreq : txtFrequency.length = 13 := rfl
  simp only [nodeBytes, List.length_append]
  omega

/-- Every node of the grammar is read, with its length as fuel enough. -/
theorem parseNode_append {x : List Byte} (hx : NodeText t x) (hfuel : x.length ≤ fuel) :
    parseNode fuel (x ++ rest) = some (t, rest) := by
  induction fuel generalizing t x rest with
  | zero =>
    cases t with
    | absent => exact absurd hx not_nodeText_absent
    | node f s l r =>
      obtain ⟨u, w, ml, mr, -, -, -, -, rfl⟩ := nodeText_node_iff.mp hx
      have := (length_nodeBytes u s w ml mr).1
      omega
  | succ fuel ih =>
    cases t with
    | absent => exact absurd hx not_nodeText_absent
    | node f s l r =>
      obtain ⟨u, w, ml, mr, hu, hw, hml, hmr, rfl⟩ := nodeText_node_iff.mp hx
      obtain ⟨hlenl, hlenr⟩ := length_nodeBytes u s w ml mr
      have hfreq (b) : parseUint (u ++ (txtSymbol ++ b)) = some (f, txtSymbol ++ b) := parseUint_append hu rfl
      have hleft := parseMember_append (parse := parseNode fuel) hml (strip_left_right hmr rest)
        fun x hx hlen => ih hx (by omega)
      have hright := parseMember_append (parse := parseNode fuel) (rest := txtClose ++ rest) hmr rfl
        fun x hx hlen => ih hx (by omega)
      simp only [parseNode, nodeBytes, List.append_assoc, strip_append, hfreq, parseSymval_symtext_append,
        parseFlag_append hw, hleft, hright, Option.bind_eq_bind, Option.bind_some]

theorem memberText_memberText (h : t.present = true → NodeText t b) : MemberText key t (memberText key t b) := by
  cases t with
  | absent => exact memberText_absent key
  | node f s l r => exact .inr ⟨b, h rfl, rfl⟩

theorem flagText_flagText (isLeaf : Bool) : FlagText (flagText isLeaf) := by
  cases isLeaf with
  | true => exact .inl rfl
  | false => exact .inr rfl

/-- What the emitter writes for a node is a node of the grammar. -/
theorem nodeText_serNode (h : t.present = true) : NodeText t (serNode t) := by
  induction t with
  | absent => cases h
  | node f s l r ihl ihr =>
    exact nodeText_node_iff.mpr ⟨dec f, _, _, _, uintText_dec f, flagText_flagText _, memberText_memberText ihl,
      memberText_memberText ihr, rfl⟩

end Nodes

/-! ### Whole tree texts (R90, R92) -/

section TreeTexts

variable {t : HuffTree} {b : List Byte}

theorem not_nodeText_emptyRecord : ¬ NodeText t emptyRecord := by
  intro h
  cases t with
  | absent => exact not_nodeText_absent h
  | node f s l r =>
    obtain ⟨u, w, ml, mr, -, -, -, -, heq⟩ := nodeText_node_iff.mp h
    cases heq

theorem des_of_nodeText (h : NodeText t b) : des b = some t := by
  have hne : b ≠ emptyRecord := fun hb => not_nodeText_emptyRecord (hb ▸ h)
  have hparse := parseNode_append (rest := []) h le_rfl
  rw [List.append_nil] at hparse
  rw [des, if_neg hne, hparse]

theorem des_of_treeText (h : TreeText t b) : des b = some t := by
  rcases h with ⟨rfl, rfl⟩ | h
  · rfl
  · exact des_of_nodeText h

theorem treeText_of_des (h : des b = some t) : TreeText t b := by
  unfold des at h
  split at h
  · next hb => cases h; exact .inl ⟨rfl, hb⟩
  · split at h
    · next hparse =>
      cases h
      obtain ⟨x, hx, rfl⟩ := eq_append_of_parseNode hparse
      rw [List.append_nil]
      exact .inr hx
    · cases h

/-- The emitter writes a text of the grammar for every tree and for none. -/
theorem treeText_ser (t : HuffTree) : TreeText t (ser t) := by
  cases t with
  | absent => exact .inl ⟨rfl, rfl⟩
  | node f s l r => exact .inr (nodeText_serNode rfl)

end TreeTexts

/-- Settles O24, by induction on the fuel in both directions. -/
theorem parserMeetsGrammar : Obligations.ParserMeetsGrammar :=
  fun _ _ => ⟨treeText_of_des, des_of_treeText⟩

/-- Settles O23: the emitter's text is of the grammar, and the parser reads every such text. -/
theorem parserInvertsEmitter : Obligations.ParserInvertsEmitter :=
  fun t => des_of_treeText (treeText_ser t)

end Sys2Proof.Machine

/-! PROOFS of the family 40_freq_analyze.md: ANALYZE's table, its sum, and what each stage command writes. -/

namespace Sys2Proof.Machine

/-! ### What each stage writes (R110, R120, R123, R124, R140, R151 to R153, R170, R172) -/

section StageFrames

variable {s t : State}

theorem stageAnalyze_frame (h : stageAnalyze s = .ok t) : t = { s with ft := t.ft } := by
  obtain ⟨-, rfl⟩ := stageAnalyze_ok.mp h
  rfl

theorem stageBuild_frame (h : stageBuild s = .ok t) : t = { s with tree := t.tree } := by
  obtain ⟨_, -, rfl⟩ := stageBuild_ok.mp h
  rfl

theorem stageTser_frame (h : stageTser s = .ok t) : t = { s with ser := t.ser } := by
  obtain ⟨-, -, rfl⟩ := stageTser_ok.mp h
  rfl

theorem stageTdes_frame (h : stageTdes s = .ok t) : t = { s with tree := t.tree } := by
  obtain ⟨_, -, rfl, -⟩ := stageTdes_ok.mp h
  rfl

theorem stageGencodes_frame (h : stageGencodes s = .ok t) : t = { s with ct := t.ct } := by
  obtain ⟨-, -, rfl⟩ := stageGencodes_ok.mp h
  rfl

theorem stageMapbits_frame (h : stageMapbits s = .ok t) : t = { s with bit := t.bit } := by
  obtain ⟨_, -, -, rfl⟩ := stageMapbits_ok.mp h
  rfl

theorem stagePack_frame (h : stagePack s = .ok t) : t = { s with pay := t.pay, hdrPad := t.hdrPad } := by
  obtain ⟨-, rfl⟩ := stagePack_ok.mp h
  rfl

theorem stageAssemble_frame (h : stageAssemble s = .ok t) :
    t = { s with byo := t.byo, hdrVer := t.hdrVer, hdrOlen := t.hdrOlen, hdrTlen := t.hdrTlen } := by
  obtain ⟨-, rfl⟩ := stageAssemble_ok.mp h
  rfl

theorem stageParse_frame (h : stageParse s = .ok t) :
    t = { s with
      ser := t.ser, pay := t.pay,
      hdrVer := t.hdrVer, hdrPad := t.hdrPad, hdrOlen := t.hdrOlen, hdrTlen := t.hdrTlen } := by
  obtain ⟨_, -, rfl⟩ := stageParse_ok.mp h
  rfl

theorem stageUnpack_frame (h : stageUnpack s = .ok t) : t = { s with bit := t.bit, txo := t.txo } := by
  obtain ⟨-, _, -, -, rfl⟩ := stageUnpack_ok.mp h
  rfl

end StageFrames

/-! ### The table of a text and its sum (R110, R111) -/

section FrequencyTable

variable {s t : State}

theorem stageAnalyze_overCapacity (h : s.cfg.symsMax < (countSymbols s.txi).length) :
    stageAnalyze s = .error .capacity :=
  if_pos h

/-- Below 2^32 symbols no count wraps. -/
theorem toNat_of_mem_countSymbols {text : List Symbol} {kv : Symbol × Count} (hlen : text.length < 4294967296)
    (h : kv ∈ countSymbols text) : kv.2.toNat = text.count kv.1 := by
  have hget := SymMap.get?_of_mem (SymMap.wf_keys_nodup _ (wf_countSymbols text)) h
  have hmem : kv.1 ∈ text := (mem_keys_countSymbols text kv.1).mp (List.mem_map_of_mem h)
  rw [get?_countSymbols, if_pos hmem, Option.some.injEq] at hget
  rw [← hget, BitVec.toNat_ofNat]
  exact Nat.mod_eq_of_lt (List.count_le_length.trans_lt hlen)

/-- Each symbol of the text is counted at its own key, so the counts sum to the length. -/
theorem totalCount_countSymbols {text : List Symbol} (hlen : text.length < 4294967296) :
    totalCount (countSymbols text) = text.length := by
  calc totalCount (countSymbols text)
    _ = (((countSymbols text).map Prod.fst).map fun c => text.count c).sum := by
      rw [totalCount, List.map_map]
      exact congrArg List.sum (List.map_congr_left fun _ => toNat_of_mem_countSymbols hlen)
    _ = (text.dedup.map fun c => text.count c).sum := ((keys_countSymbols_perm text).map _).sum_eq
    _ = text.length := List.sum_map_count_dedup_eq_length text

theorem stageAnalyze_ft (h : stageAnalyze s = .ok t) : t.ft = countSymbols s.txi := by
  obtain ⟨-, rfl⟩ := stageAnalyze_ok.mp h
  rfl

/-- No stage of BUILDTXT after ANALYZE writes FT. -/
theorem stagesBuildtxt_ft (h : stagesBuildtxt s = .ok t) : t.ft = countSymbols s.txi := by
  obtain ⟨s₁, h₁, s₂, h₂, h₃⟩ := stagesBuildtxt_ok.mp h
  calc t.ft
    _ = s₂.ft := by rw [stageGencodes_frame h₃]
    _ = s₁.ft := by rw [stageBuild_frame h₂]
    _ = countSymbols s.txi := stageAnalyze_ft h₁

/-- No stage of ENCODE after ANALYZE writes FT. -/
theorem stagesEncode_ft (h : stagesEncode s = .ok t) : t.ft = countSymbols s.txi := by
  obtain ⟨s₁, h₁, s₂, h₂, s₃, h₃, s₄, h₄, s₅, h₅, s₆, h₆, h₇⟩ := stagesEncode_ok.mp h
  calc t.ft
    _ = s₆.ft := by rw [stageAssemble_frame h₇]
    _ = s₅.ft := by rw [stageTser_frame h₆]
    _ = s₄.ft := by rw [stagePack_frame h₅]
    _ = s₃.ft := by rw [stageMapbits_frame h₄]
    _ = s₂.ft := by rw [stageGencodes_frame h₃]
    _ = s₁.ft := by rw [stageBuild_frame h₂]
    _ = countSymbols s.txi := stageAnalyze_ft h₁

/-- The stages of ENCODE on a non-empty text, seen from a command that ended without error. -/
theorem execEncode_ok (hne : s.txi ≠ []) (h : execEncode s = .next t) (he : t.err = false) :
    ∃ u, stagesEncode s.clearWork = .ok u ∧ t = u.endOk := by
  rw [execEncode, if_neg (mt List.length_eq_zero_iff.mp hne)] at h
  exact endCommand_next_ok h he

/-- The three commands that count the text leave its table in FT; CLEAR_WORK, where it comes first, keeps TXI. -/
theorem exec_ft {i : Instr} (hi : i = .analyze ∨ i = .buildtxt ∨ (i = .encode ∧ s.txi ≠ []))
    (h : exec i s = .next t) (he : t.err = false) : t.ft = countSymbols s.txi := by
  obtain rfl | rfl | ⟨rfl, hne⟩ := hi
  · obtain ⟨u, hu, rfl⟩ := endCommand_next_ok h he
    exact (stageAnalyze_ft hu :)
  · obtain ⟨u, hu, rfl⟩ := endCommand_next_ok h he
    exact (stagesBuildtxt_ft hu :)
  · obtain ⟨u, hu, rfl⟩ := execEncode_ok hne h he
    exact (stagesEncode_ft hu :)

end FrequencyTable

/-! ### The obligations -/

/-- Settles O14: FT is the table of `countSymbols`, which has one key per distinct symbol. -/
theorem analyzeCountsSymbols : Obligations.AnalyzeCountsSymbols := by
  intro s _
  rw [← length_countSymbols]
  refine ⟨fun hfit => ⟨_, ?_, wf_countSymbols s.txi, get?_countSymbols s.txi⟩, fun hover => ?_⟩
  · rw [exec, execAnalyze, stageAnalyze_ok.mpr ⟨hfit, rfl⟩]
    rfl
  · rw [exec, execAnalyze, stageAnalyze_overCapacity hover]
    rfl

/-- Settles O15: FT is the table of the text. -/
theorem frequencyConservation : Obligations.FrequencyConservation := by
  intro s t i hlen hi h he
  rw [exec_ft hi h he]
  exact ⟨totalCount_countSymbols hlen, mem_keys_countSymbols s.txi⟩

/-- Settles O54: a command leaves what its stage leaves, or its write set emptied, but for the error registers. -/
theorem stageFrames : Obligations.StageFrames := by
  intro s t
  and_intros <;> intro h
  · obtain ⟨_, hu, rfl⟩ | ⟨_, -, rfl⟩ := endCommand_next h
    exacts [congrArg State.endOk (stageAnalyze_frame hu), rfl]
  · obtain ⟨_, hu, rfl⟩ | ⟨_, -, rfl⟩ := endCommand_next h
    exacts [congrArg State.endOk (stageBuild_frame hu), rfl]
  · obtain ⟨_, hu, rfl⟩ | ⟨_, -, rfl⟩ := endCommand_next h
    exacts [congrArg State.endOk (stageTser_frame hu), rfl]
  · obtain ⟨_, hu, rfl⟩ | ⟨_, -, rfl⟩ := endCommand_next h
    exacts [congrArg State.endOk (stageTdes_frame hu), rfl]
  · obtain ⟨_, hu, rfl⟩ | ⟨_, -, rfl⟩ := endCommand_next h
    exacts [congrArg State.endOk (stageGencodes_frame hu), rfl]
  · obtain ⟨_, hu, rfl⟩ | ⟨_, -, rfl⟩ := endCommand_next h
    exacts [congrArg State.endOk (stageMapbits_frame hu), rfl]
  · obtain ⟨_, hu, rfl⟩ | ⟨_, -, rfl⟩ := endCommand_next h
    exacts [congrArg State.endOk (stagePack_frame hu), rfl]
  · obtain ⟨_, hu, rfl⟩ | ⟨_, -, rfl⟩ := endCommand_next h
    exacts [congrArg State.endOk (stageAssemble_frame hu), rfl]
  · obtain ⟨_, hu, rfl⟩ | ⟨_, -, rfl⟩ := endCommand_next h
    exacts [congrArg State.endOk (stageParse_frame hu), rfl]
  · obtain ⟨_, hu, rfl⟩ | ⟨_, -, rfl⟩ := endCommand_next h
    exacts [congrArg State.endOk (stageUnpack_frame hu), rfl]

end Sys2Proof.Machine

/-! PROOFS of the family 41_tree_builder.md: the queue, the merge loop seen as a relation, and BUILD, TSER and TDES. -/

namespace Sys2Proof.Machine

/-! ### The queue (R120, R121) -/

section Queue

variable {before : QNode → QNode → Bool} {q rest : List QNode} {m : QNode}

theorem exists_takeLeast_of_ne_nil (h : q ≠ []) : ∃ m rest, takeLeast before q = some (m, rest) := by
  obtain ⟨⟨m, rest⟩, hx⟩ := Option.ne_none_iff_exists'.mp (mt takeLeast_none.mp h)
  exact ⟨m, rest, hx⟩

/-- The element removed stands in `R` to all that stay, when `R` is transitive and each comparison with an earlier element
of the queue decides `R` one way or the other. -/
theorem takeLeast_rel {R : QNode → QNode → Prop} (htrans : ∀ {x y z}, R x y → R y z → R x z)
    (hcmp : q.Pairwise fun x y => (before y x = true → R y x) ∧ (before y x = false → R x y))
    (h : takeLeast before q = some (m, rest)) : ∀ x ∈ rest, R m x := by
  induction q generalizing m rest with
  | nil => cases h
  | cons x q ih =>
    obtain ⟨hx, hq⟩ := List.pairwise_cons.mp hcmp
    simp only [takeLeast] at h
    split at h
    · cases h
      exact fun _ h => absurd h List.not_mem_nil
    · next m' rest' hm' =>
      have hleast := ih hq hm'
      obtain ⟨hlt, hge⟩ := hx m' ((takeLeast_perm hm').mem_iff.mpr List.mem_cons_self)
      split at h
      · next hb =>
        cases h
        exact List.forall_mem_cons.mpr ⟨hlt hb, hleast⟩
      · next hb =>
        cases h
        have hxm := hge (Bool.eq_false_of_not_eq_true hb)
        exact List.forall_mem_cons.mpr ⟨hxm, fun y hy => htrans hxm (hleast y hy)⟩

/-- Every admissible tie-break removes an element of least frequency. -/
theorem Admissible.freq_takeLeast_le (hb : Admissible before) (h : takeLeast before q = some (m, rest)) :
    ∀ x ∈ rest, m.tree.freq.toNat ≤ x.tree.freq.toNat := by
  refine takeLeast_rel (R := fun x y => x.tree.freq.toNat ≤ y.tree.freq.toNat) le_trans
    (List.pairwise_of_forall fun x y => ⟨fun hyx => ?_, fun hyx => ?_⟩) h
  · refine Nat.le_of_not_lt fun hlt => ?_
    rw [hb.asymm x y (hb.refines x y hlt)] at hyx
    cases hyx
  · refine Nat.le_of_not_lt fun hlt => ?_
    rw [hb.refines y x hlt] at hyx
    cases hyx

/-- Among elements with different sequence numbers an admissible tie-break removes the one before all others. -/
theorem Admissible.before_of_takeLeast (hb : Admissible before) (hseq : (q.map QNode.seq).Nodup)
    (h : takeLeast before q = some (m, rest)) : ∀ x ∈ rest, before m x = true := by
  refine takeLeast_rel (R := fun x y => before x y = true) (hb.trans _ _ _) ?_ h
  refine (List.pairwise_map.mp hseq).imp fun {x y} hne => ⟨id, fun hyx => ?_⟩
  refine (hb.total x y hne).resolve_right fun h => ?_
  rw [hyx] at h
  cases h

theorem keyBefore_eq_true {x y : QNode} : keyBefore x y = true ↔
    x.tree.freq.toNat < y.tree.freq.toNat ∨ (x.tree.freq.toNat = y.tree.freq.toNat ∧ x.seq < y.seq) := by
  simp [keyBefore]

theorem keyBefore_eq_false {x y : QNode} : keyBefore x y = false ↔
    ¬ (x.tree.freq.toNat < y.tree.freq.toNat ∨ (x.tree.freq.toNat = y.tree.freq.toNat ∧ x.seq < y.seq)) := by
  rw [← keyBefore_eq_true, Bool.not_eq_true]

/-- The order by (frequency, seq) is one R121 admits. -/
theorem admissible_keyBefore : Admissible keyBefore where
  refines x y h := keyBefore_eq_true.mpr (.inl h)
  asymm x y h := by
    rw [keyBefore_eq_true] at h
    rw [keyBefore_eq_false]
    omega
  trans x y z hxy hyz := by
    rw [keyBefore_eq_true] at hxy hyz ⊢
    omega
  total x y hne := by
    rw [keyBefore_eq_true, keyBefore_eq_true]
    omega

theorem leafQueue_seq (ft : SymMap Count) (n : Nat) : (leafQueue ft n).map QNode.seq = List.range' n ft.length := by
  induction ft generalizing n with
  | nil => rfl
  | cons kv ft ih => rw [leafQueue, List.map_cons, ih, List.length_cons, List.range'_succ]

theorem leafQueue_tree (ft : SymMap Count) (n : Nat) :
    (leafQueue ft n).map QNode.tree = ft.map fun kv => .node kv.2 (some kv.1) .absent .absent := by
  induction ft generalizing n with
  | nil => rfl
  | cons kv ft ih => rw [leafQueue, List.map_cons, ih, List.map_cons]

end Queue

/-! ### Full trees -/

section FullTrees

variable {l r : HuffTree}

theorem HuffTree.leaves_node (f : Count) (s : Option Symbol) (h : l ≠ .absent) :
    (HuffTree.node f s l r).leaves = l.leaves ++ r.leaves := by
  simp [HuffTree.leaves, HuffTree.isLeaf_of_left h]

theorem HuffTree.weighted_node (f : Count) (s : Option Symbol) (d : Nat) (h : l ≠ .absent) :
    (HuffTree.node f s l r).weighted d = l.weighted (d + 1) + r.weighted (d + 1) := by
  simp [HuffTree.weighted, HuffTree.isLeaf_of_left h]

/-- One level further down every leaf costs its frequency once more, and the frequencies sum to the root's. -/
theorem HuffTree.Full.weighted_eq {t : HuffTree} (h : t.Full) (d : Nat) :
    t.weighted d = t.weighted 0 + d * t.freq.toNat := by
  induction t generalizing d with
  | absent => exact h.elim
  | node f s l r ihl ihr =>
    obtain ⟨rfl, rfl, -⟩ | ⟨-, hsum, hl, hr⟩ := h
    · simp [HuffTree.weighted, HuffTree.isLeaf, Nat.mul_comm]
    · rw [weighted_node f s d hl.ne_absent, weighted_node f s 0 hl.ne_absent, ihl hl (d + 1), ihr hr (d + 1),
        ihl hl (0 + 1), ihr hr (0 + 1), freq_node, hsum]
      ring

end FullTrees

/-! ### The merge loop as a relation (R120) -/

section MergeLoop

variable {before : QNode → QNode → Bool} {q rest : List QNode} {a b : QNode} {seq : Nat} {t : HuffTree}

/-- The first two elements the queue gives up are `a`, then `b`. -/
def ExtractsTwo (before : QNode → QNode → Bool) (q : List QNode) (a b : QNode) (rest : List QNode) : Prop :=
  ∃ q₁, takeLeast before q = some (a, q₁) ∧ takeLeast before q₁ = some (b, rest)

/-- The element inserted for two extracted ones: the first is the left child, the second the right. -/
def merged (a b : QNode) (seq : Nat) : QNode := ⟨.node (a.tree.freq + b.tree.freq) none a.tree b.tree, seq⟩

/-- A run of the merge loop without overflow, from a queue to the tree left. -/
inductive Merges (before : QNode → QNode → Bool) : List QNode → HuffTree → Prop
  | last (x : QNode) : Merges before [x] x.tree
  | merge {q₀ x y others n u} : ExtractsTwo before q₀ x y others → x.tree.freq.toNat + y.tree.freq.toNat < 4294967296 →
      Merges before (merged x y n :: others) u → Merges before q₀ u

/-- The frequencies in the queue. -/
def queueFreqs (q : List QNode) : List Nat := q.map fun x => x.tree.freq.toNat

/-- The weighted path lengths of the trees in the queue, summed. -/
def queueWeight (q : List QNode) : Nat := (q.map fun x => x.tree.weighted 0).sum

/-- The leaves of the trees in the queue. -/
def queueLeaves (q : List QNode) : List (Symbol × Count) := q.flatMap fun x => x.tree.leaves

/-- Every tree in the queue is full. -/
def QueueFull (q : List QNode) : Prop := ∀ x ∈ q, x.tree.Full

theorem ExtractsTwo.perm (h : ExtractsTwo before q a b rest) : q.Perm (a :: b :: rest) := by
  obtain ⟨q₁, ha, hb⟩ := h
  exact (takeLeast_perm ha).trans ((takeLeast_perm hb).cons a)

theorem ExtractsTwo.length_eq (h : ExtractsTwo before q a b rest) : q.length = rest.length + 2 :=
  h.perm.length_eq

theorem ExtractsTwo.queueFreqs_perm (h : ExtractsTwo before q a b rest) :
    (queueFreqs q).Perm (a.tree.freq.toNat :: b.tree.freq.toNat :: queueFreqs rest) :=
  h.perm.map _

theorem ExtractsTwo.queueFull (h : ExtractsTwo before q a b rest) :
    QueueFull q ↔ a.tree.Full ∧ b.tree.Full ∧ QueueFull rest := by
  simp only [QueueFull, h.perm.mem_iff, List.forall_mem_cons]

/-- The two extracted are the least frequencies, in order. -/
theorem ExtractsTwo.freq_le (hb : Admissible before) (h : ExtractsTwo before q a b rest) :
    (∀ n ∈ b.tree.freq.toNat :: queueFreqs rest, a.tree.freq.toNat ≤ n) ∧
      ∀ n ∈ queueFreqs rest, b.tree.freq.toNat ≤ n := by
  obtain ⟨q₁, ha, hb'⟩ := h
  have hp : (queueFreqs q₁).Perm (b.tree.freq.toNat :: queueFreqs rest) := (takeLeast_perm hb').map _
  constructor
  · intro n hn
    obtain ⟨x, hx, rfl⟩ := List.mem_map.mp (hp.mem_iff.mpr hn)
    exact hb.freq_takeLeast_le ha x hx
  · intro n hn
    obtain ⟨x, hx, rfl⟩ := List.mem_map.mp hn
    exact hb.freq_takeLeast_le hb' x hx

theorem merged_freq (hfit : a.tree.freq.toNat + b.tree.freq.toNat < 4294967296) :
    (merged a b seq).tree.freq.toNat = a.tree.freq.toNat + b.tree.freq.toNat :=
  BitVec.toNat_add_of_lt hfit

theorem full_merged (hfit : a.tree.freq.toNat + b.tree.freq.toNat < 4294967296) (ha : a.tree.Full)
    (hb : b.tree.Full) : (merged a b seq).tree.Full :=
  .inr ⟨rfl, BitVec.toNat_add_of_lt hfit, ha, hb⟩

/-- Merging moves every leaf of the two trees one level down. -/
theorem weighted_merged (ha : a.tree.Full) (hb : b.tree.Full) : (merged a b seq).tree.weighted 0 =
    a.tree.weighted 0 + b.tree.weighted 0 + (a.tree.freq.toNat + b.tree.freq.toNat) := by
  rw [merged, HuffTree.weighted_node _ _ _ ha.ne_absent, ha.weighted_eq, hb.weighted_eq]
  omega

theorem queueFreqs_merged (hfit : a.tree.freq.toNat + b.tree.freq.toNat < 4294967296) :
    queueFreqs (merged a b seq :: rest) = (a.tree.freq.toNat + b.tree.freq.toNat) :: queueFreqs rest := by
  rw [queueFreqs, List.map_cons, merged_freq hfit, queueFreqs]

/-- A merge keeps the sum of the frequencies. -/
theorem ExtractsTwo.sum_queueFreqs (h : ExtractsTwo before q a b rest)
    (hfit : a.tree.freq.toNat + b.tree.freq.toNat < 4294967296) :
    (queueFreqs (merged a b seq :: rest)).sum = (queueFreqs q).sum := by
  rw [h.queueFreqs_perm.sum_eq, queueFreqs_merged hfit]
  simp only [List.sum_cons, add_assoc]

/-- A merge keeps every tree of the queue full. -/
theorem ExtractsTwo.queueFull_merged (h : ExtractsTwo before q a b rest)
    (hfit : a.tree.freq.toNat + b.tree.freq.toNat < 4294967296) (hq : QueueFull q) :
    QueueFull (merged a b seq :: rest) := by
  obtain ⟨ha, hb, hrest⟩ := h.queueFull.mp hq
  exact List.forall_mem_cons.mpr ⟨full_merged hfit ha hb, hrest⟩

/-- A merge keeps the leaves. -/
theorem ExtractsTwo.queueLeaves_merged (h : ExtractsTwo before q a b rest) (ha : a.tree.Full) :
    (queueLeaves (merged a b seq :: rest)).Perm (queueLeaves q) := by
  have hleaves : (merged a b seq).tree.leaves = a.tree.leaves ++ b.tree.leaves :=
    HuffTree.leaves_node _ _ ha.ne_absent
  refine .trans (.of_eq ?_) (h.perm.flatMap_right fun x => x.tree.leaves).symm
  simp only [queueLeaves, List.flatMap_cons, hleaves, List.append_assoc]

/-- A merge adds one node. -/
theorem ExtractsTwo.queueNodes_merged (h : ExtractsTwo before q a b rest) :
    queueNodes (merged a b seq :: rest) = queueNodes q + 1 := by
  rw [queueNodes, queueNodes, (h.perm.map _).sum_eq]
  simp only [List.map_cons, List.sum_cons, merged, HuffTree.nodes]
  omega

/-- A merge adds the two frequencies to the weighted path length. -/
theorem ExtractsTwo.queueWeight_merged (h : ExtractsTwo before q a b rest) (hq : QueueFull q) :
    queueWeight (merged a b seq :: rest) = queueWeight q + (a.tree.freq.toNat + b.tree.freq.toNat) := by
  obtain ⟨ha, hb, -⟩ := h.queueFull.mp hq
  rw [queueWeight, queueWeight, (h.perm.map _).sum_eq]
  simp only [List.map_cons, List.sum_cons, weighted_merged ha hb]
  omega

/-- The loop ends with the tree of a run of merges, or at a sum that reaches 2^32 (R120, R122). -/
theorem mergeAll_cases {fuel : Nat} (hq : q ≠ []) (hfuel : q.length ≤ fuel) :
    (∃ t, mergeAll before fuel q seq = .ok t ∧ Merges before q t) ∨
      (mergeAll before fuel q seq = .error .freqOverflow ∧ 4294967296 ≤ (queueFreqs q).sum) := by
  induction fuel generalizing q seq with
  | zero => exact absurd (List.length_eq_zero_iff.mp (Nat.le_zero.mp hfuel)) hq
  | succ fuel ih =>
    obtain ⟨a, q₁, ha⟩ := exists_takeLeast_of_ne_nil (before := before) hq
    by_cases hq₁ : q₁ = []
    · subst hq₁
      obtain rfl := List.perm_singleton.mp (takeLeast_perm ha)
      exact .inl ⟨a.tree, rfl, .last a⟩
    · obtain ⟨b, rest, hb⟩ := exists_takeLeast_of_ne_nil (before := before) hq₁
      have htwo : ExtractsTwo before q a b rest := ⟨q₁, ha, hb⟩
      have hlen := htwo.length_eq
      simp only [mergeAll, ha, hb]
      split
      · next hfit =>
        rw [← htwo.sum_queueFreqs (seq := seq) hfit]
        refine (ih (List.cons_ne_nil _ _) ?_).imp_left fun ⟨t, ht, hm⟩ => ⟨t, ht, .merge htwo hfit hm⟩
        rw [List.length_cons]
        omega
      · rw [htwo.queueFreqs_perm.sum_eq, List.sum_cons, List.sum_cons]
        exact .inr ⟨rfl, by omega⟩

theorem Merges.full (h : Merges before q t) (hq : QueueFull q) : t.Full := by
  induction h with
  | last x => exact hq x (List.mem_singleton_self x)
  | merge htwo hfit _ ih => exact ih (htwo.queueFull_merged hfit hq)

theorem Merges.freq (h : Merges before q t) : t.freq.toNat = (queueFreqs q).sum := by
  induction h with
  | last x => simp [queueFreqs]
  | merge htwo hfit _ ih => rw [ih, htwo.sum_queueFreqs hfit]

theorem Merges.leaves_perm (h : Merges before q t) (hq : QueueFull q) : t.leaves.Perm (queueLeaves q) := by
  induction h with
  | last x => simp [queueLeaves]
  | merge htwo hfit _ ih =>
    obtain ⟨hx, -, -⟩ := htwo.queueFull.mp hq
    exact (ih (htwo.queueFull_merged hfit hq)).trans (htwo.queueLeaves_merged hx)

/-- Every merge adds one node and leaves one tree fewer. -/
theorem Merges.nodes (h : Merges before q t) : t.nodes + 1 = queueNodes q + q.length := by
  induction h with
  | last x => simp [queueNodes]
  | merge htwo _ _ ih =>
    rw [ih, htwo.queueNodes_merged, htwo.length_eq, List.length_cons]
    omega

end MergeLoop

/-! ### What the tie-break cannot change (R127) -/

section TieBreak

variable {before₁ before₂ : QNode → QNode → Bool} {q₁ q₂ rest₁ rest₂ : List QNode} {a₁ a₂ b₁ b₂ : QNode}
  {t₁ t₂ : HuffTree}

/-- Two lists of the same numbers, each with a least one in front, have that one and the rest in common. -/
theorem eq_and_perm_of_cons_perm {n₁ n₂ : Nat} {l₁ l₂ : List Nat} (h : (n₁ :: l₁).Perm (n₂ :: l₂))
    (h₁ : ∀ n ∈ l₁, n₁ ≤ n) (h₂ : ∀ n ∈ l₂, n₂ ≤ n) : n₁ = n₂ ∧ l₁.Perm l₂ := by
  have hle : n₁ ≤ n₂ := (List.forall_mem_cons.mpr ⟨le_rfl, h₁⟩) n₂ (h.mem_iff.mpr List.mem_cons_self)
  have hge : n₂ ≤ n₁ := (List.forall_mem_cons.mpr ⟨le_rfl, h₂⟩) n₁ (h.mem_iff.mp List.mem_cons_self)
  obtain rfl := le_antisymm hle hge
  exact ⟨rfl, h.cons_inv⟩

/-- From queues of the same frequencies two admissible tie-breaks take the same two, and leave the same. -/
theorem ExtractsTwo.same_freqs (hadm₁ : Admissible before₁) (hadm₂ : Admissible before₂)
    (h₁ : ExtractsTwo before₁ q₁ a₁ b₁ rest₁) (h₂ : ExtractsTwo before₂ q₂ a₂ b₂ rest₂)
    (hp : (queueFreqs q₁).Perm (queueFreqs q₂)) : a₁.tree.freq.toNat = a₂.tree.freq.toNat ∧
      b₁.tree.freq.toNat = b₂.tree.freq.toNat ∧ (queueFreqs rest₁).Perm (queueFreqs rest₂) := by
  obtain ⟨ha₁, hb₁⟩ := h₁.freq_le hadm₁
  obtain ⟨ha₂, hb₂⟩ := h₂.freq_le hadm₂
  obtain ⟨ha, hp'⟩ :=
    eq_and_perm_of_cons_perm (h₁.queueFreqs_perm.symm.trans (hp.trans h₂.queueFreqs_perm)) ha₁ ha₂
  exact ⟨ha, eq_and_perm_of_cons_perm hp' hb₁ hb₂⟩

theorem length_eq_of_queueFreqs_perm (hp : (queueFreqs q₁).Perm (queueFreqs q₂)) : q₁.length = q₂.length := by
  simpa [queueFreqs] using hp.length_eq

/-- Two admissible runs from queues of the same frequencies: each turn takes the same two frequencies from both, and so adds
the same to both weighted path lengths. -/
theorem Merges.weighted_add_eq (hadm₁ : Admissible before₁) (hadm₂ : Admissible before₂) (h₁ : Merges before₁ q₁ t₁)
    (h₂ : Merges before₂ q₂ t₂) (hfull₁ : QueueFull q₁) (hfull₂ : QueueFull q₂)
    (hp : (queueFreqs q₁).Perm (queueFreqs q₂)) :
    t₁.weighted 0 + queueWeight q₂ = t₂.weighted 0 + queueWeight q₁ := by
  induction h₁ generalizing q₂ t₂ with
  | last x =>
    cases h₂ with
    | last y => simp [queueWeight, Nat.add_comm]
    | merge htwo _ _ =>
      have hlen := length_eq_of_queueFreqs_perm hp
      rw [htwo.length_eq, List.length_singleton] at hlen
      omega
  | merge htwo₁ hfit₁ _ ih =>
    cases h₂ with
    | last y =>
      have hlen := length_eq_of_queueFreqs_perm hp
      rw [htwo₁.length_eq, List.length_singleton] at hlen
      omega
    | merge htwo₂ hfit₂ hm₂ =>
      obtain ⟨hx, hy, hrest⟩ := htwo₁.same_freqs hadm₁ hadm₂ htwo₂ hp
      have hmerged := ih hm₂ (htwo₁.queueFull_merged hfit₁ hfull₁) (htwo₂.queueFull_merged hfit₂ hfull₂) (by
        rw [queueFreqs_merged hfit₁, queueFreqs_merged hfit₂, hx, hy]
        exact hrest.cons _)
      rw [htwo₁.queueWeight_merged hfull₁, htwo₂.queueWeight_merged hfull₂] at hmerged
      omega

end TieBreak

/-! ### BUILD (R120, R122, R125, R126) -/

section Build

variable {before : QNode → QNode → Bool} {s : State} {ft : SymMap Count} {t : HuffTree} {nodeMax : Nat}

theorem sum_queueFreqs_leafQueue (ft : SymMap Count) (n : Nat) : (queueFreqs (leafQueue ft n)).sum = totalCount ft := by
  have := congrArg (List.map fun t => t.freq.toNat) (leafQueue_tree ft n)
  simpa [queueFreqs, totalCount, Function.comp_def] using congrArg List.sum this

theorem queueLeaves_leafQueue (ft : SymMap Count) (n : Nat) : queueLeaves (leafQueue ft n) = ft := by
  have := congrArg (List.flatMap HuffTree.leaves) (leafQueue_tree ft n)
  simpa [queueLeaves, List.flatMap_map, HuffTree.leaves, HuffTree.isLeaf] using this

theorem queueFull_leafQueue (ft : SymMap Count) (n : Nat) : QueueFull (leafQueue ft n) := by
  intro x hx
  have := List.mem_map_of_mem (f := QNode.tree) hx
  rw [leafQueue_tree] at this
  obtain ⟨kv, -, hkv⟩ := List.mem_map.mp this
  rw [← hkv]
  exact .inl ⟨rfl, rfl, rfl⟩

theorem leafQueue_ne_nil (h : 2 ≤ ft.length) (n : Nat) : leafQueue ft n ≠ [] := by
  intro he
  have := leafQueue_length ft n
  rw [he, List.length_nil] at this
  omega

theorem buildWith_of_two_le (h : 2 ≤ ft.length) : buildWith before nodeMax ft =
    if nodeMax < 2 * ft.length - 1 then .error .capacity
    else mergeAll before ft.length (leafQueue ft 0) ft.length := by
  match ft, h with
  | _ :: _ :: _, _ => rfl

theorem buildWith_of_fits (h : 2 ≤ ft.length) (hcap : 2 * ft.length - 1 ≤ nodeMax) :
    buildWith before nodeMax ft = mergeAll before ft.length (leafQueue ft 0) ft.length := by
  rw [buildWith_of_two_le h, if_neg (Nat.not_lt.mpr hcap)]

/-- BUILD of two or more keys whose nodes fit: a run of merges, or an overflow of the counts' sum. -/
theorem buildWith_cases (h : 2 ≤ ft.length) (hcap : 2 * ft.length - 1 ≤ nodeMax) :
    (∃ t, buildWith before nodeMax ft = .ok t ∧ Merges before (leafQueue ft 0) t) ∨
      (buildWith before nodeMax ft = .error .freqOverflow ∧ 4294967296 ≤ totalCount ft) := by
  rw [buildWith_of_fits h hcap, ← sum_queueFreqs_leafQueue ft 0]
  exact mergeAll_cases (leafQueue_ne_nil h 0) (leafQueue_length ft 0).le

/-- Every tree BUILD makes of two or more keys is left by a run of merges. -/
theorem merges_of_buildWith (h : 2 ≤ ft.length) (hb : buildWith before nodeMax ft = .ok t) :
    Merges before (leafQueue ft 0) t := by
  have hcap : 2 * ft.length - 1 ≤ nodeMax := by
    rw [buildWith_of_two_le h, check_ok] at hb
    exact Nat.not_lt.mp hb.1
  obtain ⟨u, hu, hm⟩ | ⟨herr, -⟩ := buildWith_cases (before := before) h hcap
  · rw [hu] at hb
    cases hb
    exact hm
  · rw [herr] at hb
    cases hb

theorem exec_build_ok (h : buildWith keyBefore s.cfg.nodeMax s.ft = .ok t) :
    exec .build s = .next { s with tree := t, err := false, errcode := 0#32 } := by
  rw [exec, execBuild, stageBuild_ok.mpr ⟨t, h, rfl⟩]
  rfl

theorem exec_build_error {e : ErrCode} (h : buildWith keyBefore s.cfg.nodeMax s.ft = .error e) :
    exec .build s = .next { s with tree := .absent, err := true, errcode := e.code } := by
  have hstage : stageBuild s = .error e := bind_error.mpr (.inl h)
  rw [exec, execBuild, hstage]
  rfl

/-- The merge loop on two elements. -/
theorem mergeAll_pair {x y : QNode} {seq : Nat} (hfit : x.tree.freq.toNat + y.tree.freq.toNat < 4294967296) :
    mergeAll before 2 [x, y] seq =
      .ok (if before y x then (merged y x seq).tree else (merged x y seq).tree) := by
  have hfit' : y.tree.freq.toNat + x.tree.freq.toNat < 4294967296 := by omega
  by_cases h : before y x
  · simp [mergeAll, takeLeast, merged, h, hfit']
  · simp [mergeAll, takeLeast, merged, h, hfit]

end Build

/-! ### TSER and TDES (R123, R124) -/

section TreeTextCommands

variable {s : State} {t : HuffTree}

theorem stageTser_overCapacity (h : s.cfg.depthMax < s.tree.depth ∨ s.cfg.bytMax < (ser s.tree).length) :
    stageTser s = .error .capacity := by
  unfold stageTser
  by_cases hdepth : s.cfg.depthMax < s.tree.depth
  · rw [if_pos hdepth]
  · rw [if_neg hdepth, if_pos (h.resolve_left hdepth)]

theorem stageTdes_treeSyntax (h : des s.ser = none) : stageTdes s = .error .treeSyntax := by
  rw [stageTdes, h]

/-- No tree has no node and no depth, so it is never too large. -/
theorem stageTdes_overCapacity (h : des s.ser = some t) (hbig : s.cfg.nodeMax < t.nodes ∨ s.cfg.depthMax < t.depth) :
    stageTdes s = .error .capacity := by
  cases t with
  | absent => exact absurd hbig (by simp [HuffTree.nodes, HuffTree.depth, HuffTree.levels])
  | node f c l r =>
    rw [stageTdes, h]
    exact if_pos hbig

theorem exec_tdes_error {e : ErrCode} (h : stageTdes s = .error e) :
    exec .tdes s = .next { s with tree := .absent, err := true, errcode := e.code } := by
  rw [exec, execTdes, h]
  rfl

end TreeTextCommands

/-! ### The obligations -/

/-- Settles O19: the order by (frequency, seq) is admissible, and an admissible order's first element is removed. -/
theorem queueRemovesLeast : Obligations.QueueRemovesLeast := by
  refine ⟨fun q rest m hseq h => ⟨takeLeast_perm h, fun x hx => ?_⟩, fun ft => ⟨?_, leafQueue_tree ft 0⟩⟩
  · exact (keyBefore_eq_true.mp (admissible_keyBefore.before_of_takeLeast hseq h x hx)).imp_right
      (And.imp_left BitVec.eq_of_toNat_eq)
  · rw [leafQueue_seq, List.range_eq_range']

/-- Settles O17: without overflow the merge loop leaves one tree, and each merge keeps what is claimed of it. -/
theorem buildMakesFullTree : Obligations.BuildMakesFullTree := by
  intro s hn hcap hsum
  obtain ⟨t, ht, hm⟩ | ⟨-, hover⟩ := buildWith_cases (before := keyBefore) hn hcap
  · have hfull := queueFull_leafQueue s.ft 0
    refine ⟨t, exec_build_ok ht, hm.full hfull, ?_, ?_, ?_⟩
    · exact queueLeaves_leafQueue s.ft 0 ▸ hm.leaves_perm hfull
    · have := hm.nodes
      rw [queueNodes_leafQueue, leafQueue_length] at this
      omega
    · rw [hm.freq, sum_queueFreqs_leafQueue]
  · omega

/-- Settles O18: a run of merges would end with all the counts in one frequency below 2^32. -/
theorem buildErrors : Obligations.BuildErrors := by
  intro s hn
  refine ⟨fun hcap => exec_build_error (e := .capacity) ?_, fun hcap hsum => exec_build_error (e := .freqOverflow) ?_⟩
  · rw [buildWith_of_two_le hn, if_pos hcap]
  · obtain ⟨t, -, hm⟩ | ⟨herr, -⟩ := buildWith_cases (before := keyBefore) hn hcap
    · have hfreq := hm.freq
      rw [sum_queueFreqs_leafQueue] at hfreq
      have := t.freq.isLt
      omega
    · exact herr

/-- Settles O20: both runs start from the same leaves. -/
theorem tieBreakKeepsWeight : Obligations.TieBreakKeepsWeight := by
  refine ⟨admissible_keyBefore, fun before₁ before₂ nodeMax ft t₁ t₂ hadm₁ hadm₂ hn h₁ h₂ => ?_⟩
  have hfull := queueFull_leafQueue ft 0
  exact Nat.add_right_cancel
    ((merges_of_buildWith hn h₁).weighted_add_eq hadm₁ hadm₂ (merges_of_buildWith hn h₂) hfull hfull (.refl _))

/-- Settles O16: no turn of the merge loop for one key or none, one turn for two. -/
theorem buildSmallTables : Obligations.BuildSmallTables := by
  intro s
  refine ⟨fun hft => exec_build_ok ?_, fun c n hft hcap => exec_build_ok ?_,
    fun a b m n hft hcap hfit => exec_build_ok ?_⟩
  · rw [hft]
    rfl
  · rw [hft, buildWith, if_neg (Nat.not_lt.mpr hcap)]
  · rw [hft, buildWith_of_fits (ft := [(a, m), (b, n)]) (le_refl 2) hcap]
    refine (mergeAll_pair (x := ⟨.node m (some a) .absent .absent, 0⟩) (y := ⟨.node n (some b) .absent .absent, 1⟩)
      hfit).trans ?_
    simp [keyBefore_eq_true, merged, BitVec.add_comm n m]

/-- Settles O21: TSER's two checks, and the emitter's text is of the grammar. -/
theorem tserWritesTreeText : Obligations.TserWritesTreeText := by
  intro s
  refine ⟨fun hdepth hlen => ⟨?_, treeText_ser s.tree⟩, fun hover => ?_⟩
  · rw [exec, execTser, stageTser_ok.mpr ⟨hdepth, hlen, rfl⟩]
    rfl
  · rw [exec, execTser, stageTser_overCapacity hover]
    rfl

/-- Settles O22: the parser reads the tree whose text SER is, and fails where SER is the text of no tree. -/
theorem tdesReadsTreeText : Obligations.TdesReadsTreeText := by
  intro s
  refine ⟨fun t ht hnodes hdepth => ?_, fun t ht hbig => ?_, fun hno => ?_⟩
  · rw [exec, execTdes, stageTdes_ok.mpr ⟨t, des_of_treeText ht, rfl, .inr ⟨hnodes, hdepth⟩⟩]
    rfl
  · exact exec_tdes_error (stageTdes_overCapacity (des_of_treeText ht) hbig)
  · have hnone : des s.ser = none := Option.eq_none_iff_forall_ne_some.mpr fun t ht => hno t (treeText_of_des ht)
    exact exec_tdes_error (stageTdes_treeSyntax hnone)

end Sys2Proof.Machine

/-! PROOFS of the family 42_code_table_gen.md: GENCODES, its table read off the tree's leaves and their paths. -/

namespace Sys2Proof.Machine

/-! ### The map of a list of pairs, where a later pair replaces an earlier one (R7) -/

section MapOfList

variable {α : Type}

theorem SymMap.ofList_append_singleton (l : List (Symbol × α)) (x : Symbol × α) :
    SymMap.ofList (l ++ [x]) = SymMap.insert x.1 x.2 (SymMap.ofList l) := by
  simp [SymMap.ofList]

/-- The last pair listed for a key gives its value. -/
theorem SymMap.get?_ofList (k : Symbol) (l : List (Symbol × α)) :
    SymMap.get? k (SymMap.ofList l) = l.reverse.lookup k := by
  induction l using List.reverseRecOn with
  | nil => rfl
  | append_singleton l x ih =>
    rw [ofList_append_singleton, get?_insert, ih, List.reverse_append, List.reverse_singleton, List.singleton_append,
      List.lookup_cons]
    by_cases h : x.1 = k
    · simp [h]
    · rw [if_neg h, beq_false_of_ne (Ne.symm h)]

theorem SymMap.mem_keys_ofList (k : Symbol) (l : List (Symbol × α)) :
    k ∈ (SymMap.ofList l).map Prod.fst ↔ k ∈ l.map Prod.fst := by
  induction l using List.reverseRecOn with
  | nil => rfl
  | append_singleton l x ih =>
    rw [ofList_append_singleton, mem_keys_insert, ih, List.map_append, List.mem_append, List.map_singleton,
      List.mem_singleton, or_comm]

/-- One entry per distinct key listed. -/
theorem SymMap.length_ofList (l : List (Symbol × α)) : (SymMap.ofList l).length = (l.map Prod.fst).dedup.length := by
  have hkeys : ((SymMap.ofList l).map Prod.fst).Perm (l.map Prod.fst).dedup :=
    (List.perm_ext_iff_of_nodup (wf_keys_nodup _ (wf_ofList l)) (List.nodup_dedup _)).mpr fun k => by
      rw [mem_keys_ofList, List.mem_dedup]
  simpa using hkeys.length_eq

end MapOfList

/-! ### Leaves, paths and depth -/

section LeafPaths

theorem HuffTree.map_fst_paths (t : HuffTree) (p : BitStr) : (t.paths p).map Prod.fst = t.leaves.map Prod.fst := by
  induction t generalizing p with
  | absent => rfl
  | node f s l r ihl ihr =>
    simp only [paths, leaves]
    split
    · cases s <;> rfl
    · rw [List.map_append, List.map_append, ihl, ihr]

/-- A path goes down at most one edge per level below the first. -/
theorem HuffTree.length_lt_of_mem_paths {t : HuffTree} {p : BitStr} {x : Symbol × BitStr} (h : x ∈ t.paths p) :
    x.2.length < p.length + t.levels := by
  induction t generalizing p with
  | absent => exact absurd h List.not_mem_nil
  | node f s l r ihl ihr =>
    simp only [paths] at h
    split at h
    · cases s with
      | none => exact absurd h List.not_mem_nil
      | some c =>
        rw [List.mem_singleton.mp h]
        exact Nat.lt_add_of_pos_right (Nat.succ_pos _)
    · rw [levels]
      rcases List.mem_append.mp h with h | h
      · have := ihl h
        rw [List.length_append, List.length_singleton] at this
        omega
      · have := ihr h
        rw [List.length_append, List.length_singleton] at this
        omega

theorem HuffTree.length_le_depth_of_mem_paths {t : HuffTree} {x : Symbol × BitStr} (h : x ∈ t.paths []) :
    x.2.length ≤ t.depth := by
  have := length_lt_of_mem_paths h
  rw [List.length_nil] at this
  unfold depth
  omega

theorem HuffTree.isLeaf_shape (t : HuffTree) : t.shape.isLeaf = t.isLeaf := by
  match t with
  | .absent | .node _ _ .absent .absent | .node _ _ .absent (.node _ _ _ _) | .node _ _ (.node _ _ _ _) _ => rfl

theorem HuffTree.levels_shape (t : HuffTree) : t.shape.levels = t.levels := by
  induction t with
  | absent => rfl
  | node f s l r ihl ihr => rw [shape, levels, levels, ihl, ihr]

theorem HuffTree.depth_shape (t : HuffTree) : t.shape.depth = t.depth := by
  rw [depth, depth, levels_shape]

theorem HuffTree.paths_shape (t : HuffTree) (p : BitStr) : t.shape.paths p = t.paths p := by
  induction t generalizing p with
  | absent => rfl
  | node f s l r ihl ihr =>
    have hleaf : (HuffTree.node 0#32 s l.shape r.shape).isLeaf = (HuffTree.node f s l r).isLeaf :=
      isLeaf_shape (.node f s l r)
    simp only [shape, paths, hleaf, ihl, ihr]

end LeafPaths

/-! ### The table of a tree (R140, R141) -/

section TableOfTree

variable {t : HuffTree}

theorem codesOf_shape (t : HuffTree) : codesOf t.shape = codesOf t := by
  rw [codesOf_eq_ofList, codesOf_eq_ofList, HuffTree.paths_shape]

theorem length_codesOf (t : HuffTree) : (codesOf t).length = (t.leaves.map Prod.fst).dedup.length := by
  have hkeys : ((t.paths []).map leafEntry).map Prod.fst = t.leaves.map Prod.fst := by
    rw [List.map_map, ← t.map_fst_paths []]
    rfl
  rw [codesOf_eq_ofList, SymMap.length_ofList, hkeys]

theorem lookup_map_leafEntry (c : Symbol) (l : List (Symbol × BitStr)) :
    (l.map leafEntry).lookup c = (l.lookup c).map leafCode := by
  induction l with
  | nil => rfl
  | cons x l ih =>
    rw [List.map_cons, List.lookup_cons, List.lookup_cons, ih]
    by_cases h : c == x.1 <;> simp [leafEntry, h]

/-- The table gives a symbol the code of its last leaf. -/
theorem get?_codesOf (c : Symbol) (t : HuffTree) :
    SymMap.get? c (codesOf t) = ((t.paths []).reverse.lookup c).map leafCode := by
  rw [codesOf_eq_ofList, SymMap.get?_ofList, ← List.map_reverse, lookup_map_leafEntry]

theorem length_leafCode (p : BitStr) : (leafCode p).length = max 1 p.length := by
  unfold leafCode
  split
  · next h => simp [h]
  · next h => exact (max_eq_right (List.length_pos_iff.mpr h)).symm

theorem length_le_of_mem_codesOf {x : Symbol × BitStr} (h : x ∈ codesOf t) : x.2.length ≤ max 1 t.depth := by
  rw [codesOf_eq_ofList] at h
  obtain ⟨y, hy, rfl⟩ := List.mem_map.mp (SymMap.mem_ofList h)
  rw [leafEntry, length_leafCode]
  exact max_le_max_left 1 (HuffTree.length_le_depth_of_mem_paths hy)

end TableOfTree

/-! ### GENCODES: its two outcomes (R140, R231) -/

section Gencodes

variable {s t : State}

theorem exec_gencodes_ok (hdepth : s.tree.depth ≤ s.cfg.depthMax) (hsyms : (codesOf s.tree).length ≤ s.cfg.symsMax) :
    exec .gencodes s = .next { s with ct := codesOf s.tree, err := false, errcode := 0#32 } := by
  rw [exec, execGencodes, stageGencodes_ok.mpr ⟨hdepth, hsyms, rfl⟩]
  rfl

theorem stageGencodes_overCapacity
    (h : s.cfg.depthMax < s.tree.depth ∨ s.cfg.symsMax < (codesOf s.tree).length) :
    stageGencodes s = .error .capacity := by
  unfold stageGencodes
  by_cases hdepth : s.cfg.depthMax < s.tree.depth
  · rw [if_pos hdepth]
  · rw [if_neg hdepth, if_pos (h.resolve_left hdepth)]

theorem exec_gencodes_overCapacity
    (h : s.cfg.depthMax < s.tree.depth ∨ s.cfg.symsMax < (codesOf s.tree).length) :
    exec .gencodes s = .next { s with ct := [], err := true, errcode := 11#32 } := by
  rw [exec, execGencodes, stageGencodes_overCapacity h]
  rfl

/-- What GENCODES leaves in CT and ERRCODE comes from the capacities and TREE's depth and table alone. -/
theorem ct_errcode_of_exec_gencodes (h : exec .gencodes s = .next t) : (t.ct, t.errcode) =
    if s.cfg.depthMax < s.tree.depth ∨ s.cfg.symsMax < (codesOf s.tree).length then ([], 11#32)
    else (codesOf s.tree, 0#32) := by
  split
  · next hover =>
    rw [exec_gencodes_overCapacity hover] at h
    cases h
    rfl
  · next hfits =>
    obtain ⟨hdepth, hsyms⟩ := not_or.mp hfits
    rw [exec_gencodes_ok (Nat.not_lt.mp hdepth) (Nat.not_lt.mp hsyms)] at h
    cases h
    rfl

/-- GENCODES leaves the table of TREE or, at an error, the empty one. -/
theorem ct_of_exec_gencodes (h : exec .gencodes s = .next t) : t.ct = codesOf s.tree ∨ t.ct = [] := by
  obtain ⟨u, hu, rfl⟩ | ⟨e, -, rfl⟩ := endCommand_next h
  · obtain ⟨-, -, rfl⟩ := stageGencodes_ok.mp hu
    exact .inl rfl
  · exact .inr rfl

theorem isCodeTable_of_exec_gencodes (h : exec .gencodes s = .next t) : IsCodeTable t.ct := by
  obtain hct | hct := ct_of_exec_gencodes h
  · exact hct ▸ isCodeTable_codesOf s.tree
  · exact hct ▸ isCodeTable_nil

end Gencodes

/-! ### The obligations -/

/-- Settles O26: the walk inserts the leaves' entries in order, so the last leaf of a symbol wins. -/
theorem gencodesRecordsPaths : Obligations.GencodesRecordsPaths := by
  intro s
  rw [← length_codesOf]
  exact ⟨fun hdepth hsyms => ⟨codesOf s.tree, exec_gencodes_ok hdepth hsyms, (isCodeTable_codesOf s.tree).wf,
    fun c => get?_codesOf c s.tree⟩, exec_gencodes_overCapacity⟩

/-- Settles O27: the table and the depth of a tree are those of its shape. -/
theorem gencodesIgnoresFrequencies : Obligations.GencodesIgnoresFrequencies := by
  intro s₁ s₂ t₁ t₂ hcfg hshape h₁ h₂
  have hcodes : codesOf s₁.tree = codesOf s₂.tree := by rw [← codesOf_shape, hshape, codesOf_shape]
  have hdepths : s₁.tree.depth = s₂.tree.depth := by rw [← HuffTree.depth_shape, hshape, HuffTree.depth_shape]
  exact Prod.mk.inj (by
    rw [ct_errcode_of_exec_gencodes h₁, ct_errcode_of_exec_gencodes h₂, hcfg, hdepths, hcodes])

/-- Settles O28: the table of every tree is a code table, and so is the empty one an error leaves. -/
theorem gencodesPrefixFree : Obligations.GencodesPrefixFree :=
  fun _ _ h => (isCodeTable_of_exec_gencodes h).prefixFree

/-- Settles O29: no code is empty, and a path to a leaf has no more edges than the tree is deep. -/
theorem gencodesCodeLengths : Obligations.GencodesCodeLengths := by
  intro s t h kv hkv
  refine ⟨List.length_pos_iff.mpr ((isCodeTable_of_exec_gencodes h).codes kv hkv), ?_⟩
  obtain hct | hct := ct_of_exec_gencodes h
  · exact length_le_of_mem_codesOf (hct ▸ hkv)
  · exact absurd (hct ▸ hkv) List.not_mem_nil

end Sys2Proof.Machine

/-! PROOFS of the family 43_encoder.md: MAPBITS, PACK and ASSEMBLE, then what BUILDTXT and ENCODE make of their stages. -/

namespace Sys2Proof.Machine

/-! ### The bits of a text (R151) -/

section TextCodes

variable {s : State} {ct : SymMap BitStr} {text : List Symbol}

/-- The codes of the text's symbols in text order, a symbol without a code leaving no bits. -/
def textCodes (ct : SymMap BitStr) (text : List Symbol) : BitStr := text.flatMap fun c => (SymMap.get? c ct).getD []

theorem textCodes_cons {c : Symbol} {code : BitStr} (h : SymMap.get? c ct = some code) (text : List Symbol) :
    textCodes ct (c :: text) = code ++ textCodes ct text := by
  rw [textCodes, List.flatMap_cons, h, Option.getD_some, textCodes]

theorem mapBits_of_codes (h : ∀ c ∈ text, (SymMap.get? c ct).isSome = true) :
    mapBits ct text = .ok (textCodes ct text) := by
  induction text with
  | nil => rfl
  | cons c text ih =>
    obtain ⟨hc, htext⟩ := List.forall_mem_cons.mp h
    obtain ⟨code, hcode⟩ := Option.isSome_iff_exists.mp hc
    rw [mapBits, textCodes_cons hcode, hcode]
    exact bind_ok.mpr ⟨_, ih htext, rfl⟩

/-- The first symbol without a code ends the walk, whatever follows it. -/
theorem mapBits_noCode (h : ∃ c ∈ text, SymMap.get? c ct = none) : mapBits ct text = .error .noCode := by
  induction text with
  | nil => simp at h
  | cons c text ih =>
    rw [mapBits]
    cases hcode : SymMap.get? c ct with
    | none => rfl
    | some code =>
      have htext : ∃ c ∈ text, SymMap.get? c ct = none :=
        ((List.exists_mem_cons_iff _ _ _).mp h).resolve_left (by simp [hcode])
      exact bind_error.mpr (.inl (ih htext))

theorem length_textCodes_le {n : Nat} (h : ∀ kv ∈ ct, kv.2.length ≤ n) :
    (textCodes ct text).length ≤ text.length * n := by
  have hcode : ∀ c ∈ text, ((SymMap.get? c ct).getD []).length ≤ n := fun c _ => by
    cases hget : SymMap.get? c ct with
    | none => exact Nat.zero_le n
    | some code => exact h _ (SymMap.mem_of_get? hget)
  rw [textCodes, List.length_flatMap]
  simpa using List.sum_le_card_nsmul (text.map fun c => ((SymMap.get? c ct).getD []).length) n (by simpa using hcode)

theorem stageMapbits_overCapacity (h : ∀ c ∈ s.txi, (SymMap.get? c s.ct).isSome = true)
    (hcap : s.cfg.bitMax < (textCodes s.ct s.txi).length) : stageMapbits s = .error .capacity :=
  bind_error.mpr (.inr ⟨_, mapBits_of_codes h, if_pos hcap⟩)

theorem stageMapbits_noCode (h : ∃ c ∈ s.txi, SymMap.get? c s.ct = none) : stageMapbits s = .error .noCode :=
  bind_error.mpr (.inl (mapBits_noCode h))

end TextCodes

/-! ### Padding and packing (R152) -/

section Packing

variable {s : State} {bits : BitStr} {k : Nat}

theorem add_padCount_mod (n : Nat) : (n + padCount n) % 8 = 0 := by
  unfold padCount
  omega

/-- A bit-string packs into at most as many bytes as it has bits. -/
theorem add_padCount_div_le (n : Nat) : (n + padCount n) / 8 ≤ n := by
  unfold padCount
  omega

/-- The bit-string brought to whole bytes. -/
def padded (bits : BitStr) : BitStr := bits ++ List.replicate (padCount bits.length) false

theorem length_padded (bits : BitStr) : (padded bits).length = bits.length + padCount bits.length := by
  rw [padded, List.length_append, List.length_replicate]

theorem length_packBytes_padded (bits : BitStr) :
    (packBytes (padded bits)).length = (bits.length + padCount bits.length) / 8 := by
  rw [packBytes_length, length_padded]

theorem unpackBits_packBytes_padded (bits : BitStr) : unpackBits (packBytes (padded bits)) = padded bits :=
  unpackBits_packBytes _ (by rw [length_padded, add_padCount_mod])

/-- Byte `k` is made of bits `8k` to `8k+7`, the first its bit 7 (R53). -/
theorem getD_packBytes (h : k < (packBytes bits).length) : (packBytes bits).getD k 0#8 =
    bitsByte (bits.getD (8 * k) false) (bits.getD (8 * k + 1) false) (bits.getD (8 * k + 2) false)
      (bits.getD (8 * k + 3) false) (bits.getD (8 * k + 4) false) (bits.getD (8 * k + 5) false)
      (bits.getD (8 * k + 6) false) (bits.getD (8 * k + 7) false) := by
  induction bits using packBytes.induct generalizing k with
  | case1 b7 b6 b5 b4 b3 b2 b1 b0 rest ih =>
    cases k with
    | zero => rfl
    | succ k => exact ih (Nat.lt_of_succ_lt_succ h)
  | case2 bits hshort =>
    rw [packBytes.eq_2 bits hshort] at h
    exact absurd h (Nat.not_lt_zero k)

theorem stagePack_overCapacity (h : s.cfg.bytMax < (s.bit.length + padCount s.bit.length) / 8) :
    stagePack s = .error .capacity :=
  if_pos h

/-- The padding byte of a container whose payload comes from `n` bits (R80). -/
def padByte (n : Nat) : Byte := BitVec.ofNat 8 (padCount n)

theorem toNat_padByte (n : Nat) : (padByte n).toNat = padCount n :=
  toNat_ofNat_byte ((padCount_le n).trans_lt (by decide))

/-- HDR_PAD holds the padding byte. -/
theorem ofNat_padCount (n : Nat) : BitVec.ofNat 32 (padCount n) = (padByte n).setWidth 32 := by
  refine BitVec.eq_of_toNat_eq ?_
  rw [BitVec.toNat_setWidth, toNat_padByte, BitVec.toNat_ofNat]

theorem extractLsb'_ofNat_padCount (n : Nat) : (BitVec.ofNat 32 (padCount n)).extractLsb' 0 8 = padByte n := by
  have := padCount_le n
  refine BitVec.eq_of_toNat_eq ?_
  rw [BitVec.extractLsb'_toNat, toNat_padByte, BitVec.toNat_ofNat]
  omega

end Packing

/-! ### ASSEMBLE (R153) -/

section Assemble

variable {s : State}

theorem length_assembled (s : State) : (assembled s).length = 14 + s.ser.length + s.pay.length :=
  container_length _ _ _ _ _

/-- ASSEMBLE after PACK of `n` bits. -/
theorem assembled_of_hdrPad {n : Nat} (h : s.hdrPad = BitVec.ofNat 32 (padCount n)) : assembled s =
    container 1#8 (padByte n) (BitVec.ofNat 32 s.txi.length) s.ser s.pay := by
  rw [assembled, h, extractLsb'_ofNat_padCount]

theorem stageAssemble_overCapacity (h : s.cfg.bytMax < (assembled s).length) : stageAssemble s = .error .capacity :=
  if_pos h

end Assemble

/-! ### The length of a tree text (R85 to R89) -/

section TreeTextLength

theorem length_decDigits_le (fuel n : Nat) (acc : List Byte) : (decDigits fuel n acc).length ≤ fuel + acc.length := by
  induction fuel generalizing n acc with
  | zero => simp [decDigits]
  | succ fuel ih =>
    rw [decDigits]
    split
    · rw [List.length_cons]; omega
    · have := ih (n / 10) (digitByte (n % 10) :: acc)
      rw [List.length_cons] at this
      omega

theorem length_dec_le (v : Count) : (dec v).length ≤ 10 := length_decDigits_le 10 v.toNat []

theorem length_esc_le (c : Symbol) : (esc c).length ≤ 6 := by
  unfold esc utf8
  split_ifs <;> simp [txtU00]

theorem length_symtext_le (s : Option Symbol) : (symtext s).length ≤ 8 := by
  cases s with
  | none => decide
  | some c =>
    have := length_esc_le c
    simp only [symtext, txtQuote, List.length_append, List.length_singleton]
    omega

theorem length_flagText_le (b : Bool) : (flagText b).length ≤ 5 := by cases b <;> decide

/-- A child takes at most 66 bytes of text a node, its key of at most 9 bytes among them. -/
theorem length_memberText_le (t : HuffTree) {key : List Byte} (hkey : key.length ≤ 9) :
    (memberText key t (serNode t)).length ≤ 66 * t.nodes := by
  induction t generalizing key with
  | absent => exact Nat.zero_le _
  | node f s l r ihl ihr =>
    have hdec := length_dec_le f
    have hsym := length_symtext_le s
    have hflag := length_flagText_le (HuffTree.isLeaf (.node f s l r))
    have hl := ihl (key := txtLeft) (by decide)
    have hr := ihr (key := txtRight) (by decide)
    have hfixed : txtFrequency.length = 13 ∧ txtSymbol.length = 10 ∧ txtIsLeaf.length = 10 ∧ txtClose.length = 1 := by
      decide
    simp only [memberText, HuffTree.present, if_true, serNode, HuffTree.nodes, List.length_append] at hl hr ⊢
    omega

/-- The bound `RoomFor` allows a node; the text of no tree has two bytes. -/
theorem length_ser_le (t : HuffTree) : (ser t).length ≤ 2 + 66 * t.nodes := by
  cases t with
  | absent => exact le_rfl
  | node f s l r => exact (length_memberText_le (.node f s l r) (key := []) (Nat.zero_le 9)).trans (Nat.le_add_left _ _)

end TreeTextLength

/-! ### BUILD of the table of a text (R120, R125) -/

section BuiltTrees

variable {before : QNode → QNode → Bool} {ft : SymMap Count} {t : HuffTree} {nodeMax : Nat} {c : Symbol}

/-- What BUILD's tree keeps of its table, the degenerate trees of one key and of none included. -/
structure BuiltFrom (ft : SymMap Count) (t : HuffTree) : Prop where
  leaves : t.leaves.Perm ft
  nodes : t.nodes ≤ 2 * ft.length
  depth : t.depth ≤ ft.length

/-- Each level of a full tree below the first parts the leaves once more. -/
theorem HuffTree.Full.levels_le (h : t.Full) : 1 ≤ t.levels ∧ t.levels ≤ t.leaves.length := by
  induction t with
  | absent => exact h.elim
  | node f s l r ihl ihr =>
    obtain ⟨rfl, rfl, hs⟩ | ⟨-, -, hl, hr⟩ := h
    · obtain ⟨c, rfl⟩ := Option.isSome_iff_exists.mp hs
      exact ⟨le_rfl, le_rfl⟩
    · have := ihl hl
      have := ihr hr
      rw [leaves_node f s hl.ne_absent, List.length_append, levels]
      omega

theorem Merges.builtFrom (h : Merges before (leafQueue ft 0) t) : BuiltFrom ft t := by
  have hfull := h.full (queueFull_leafQueue ft 0)
  have hleaves : t.leaves.Perm ft := queueLeaves_leafQueue ft 0 ▸ h.leaves_perm (queueFull_leafQueue ft 0)
  have hnodes := h.nodes
  rw [queueNodes_leafQueue, leafQueue_length] at hnodes
  have hlevels := hleaves.length_eq ▸ hfull.levels_le.2
  exact ⟨hleaves, by omega, (Nat.sub_le _ 1).trans hlevels⟩

theorem exists_builtFrom (hcap : 2 * ft.length ≤ nodeMax) (hsum : totalCount ft < 4294967296) :
    ∃ t, buildWith before nodeMax ft = .ok t ∧ BuiltFrom ft t := by
  match ft with
  | [] => exact ⟨.absent, rfl, .refl _, le_rfl, le_rfl⟩
  | [(c, n)] => exact ⟨_, if_neg (Nat.not_lt.mpr hcap), .refl _, le_rfl, le_rfl⟩
  | x :: y :: ft =>
    obtain ⟨t, ht, hm⟩ | ⟨-, hover⟩ :=
      buildWith_cases (before := before) (ft := x :: y :: ft) (Nat.le_add_left 2 _) ((Nat.sub_le _ 1).trans hcap)
    · exact ⟨t, ht, hm.builtFrom⟩
    · omega

theorem countSymbols_ne_nil {text : List Symbol} (h : text ≠ []) : countSymbols text ≠ [] := by
  rwa [Ne, ← List.length_eq_zero_iff, length_countSymbols, List.length_eq_zero_iff, List.dedup_eq_nil]

theorem mem_keys_codesOf (c : Symbol) (t : HuffTree) : c ∈ (codesOf t).map Prod.fst ↔ c ∈ t.leaves.map Prod.fst := by
  rw [codesOf_eq_ofList, SymMap.mem_keys_ofList, List.map_map, ← t.map_fst_paths []]
  rfl

/-- GENCODES gives every key of the table a code. -/
theorem BuiltFrom.isSome_code (h : BuiltFrom ft t) (hc : c ∈ ft.map Prod.fst) :
    (SymMap.get? c (codesOf t)).isSome = true := by
  rw [Option.isSome_iff_ne_none, Ne, SymMap.get?_eq_none, not_not, mem_keys_codesOf]
  exact (h.leaves.map Prod.fst).mem_iff.mpr hc

theorem BuiltFrom.length_codesOf (h : BuiltFrom ft t) (hft : SymMap.wf ft = true) :
    (codesOf t).length = ft.length := by
  have hkeys := h.leaves.map Prod.fst
  rw [Machine.length_codesOf, (hkeys.nodup_iff.mpr (SymMap.wf_keys_nodup ft hft)).dedup, hkeys.length_eq,
    List.length_map]

/-- No code is longer than the table. -/
theorem BuiltFrom.length_code_le (h : BuiltFrom ft t) (hne : ft ≠ []) : ∀ kv ∈ codesOf t, kv.2.length ≤ ft.length :=
  fun _ hkv => (length_le_of_mem_codesOf hkv).trans (max_le (List.length_pos_iff.mpr hne) h.depth)

end BuiltTrees

/-! ### Stages and the error registers (R231) -/

section ErrorRegisters

variable {α : Type} {f g : State → Except ErrCode State} {s t z : State}

/-- The stage neither reads nor writes the error registers: with both 0 before it, it does the same and leaves both 0. -/
def ErrBlind (f : State → Except ErrCode State) : Prop := ∀ s, f s.endOk = (f s).map State.endOk

theorem ErrBlind.raise (e : ErrCode) : ErrBlind fun _ => .error e := fun _ => rfl

theorem ErrBlind.write {u : State → State} (hu : ∀ s, u s.endOk = (u s).endOk) : ErrBlind fun s => .ok (u s) :=
  fun s => congrArg Except.ok (hu s)

theorem ErrBlind.ite {c : State → Prop} [DecidablePred c] (hc : ∀ s, c s.endOk ↔ c s) (hf : ErrBlind f)
    (hg : ErrBlind g) : ErrBlind fun s => if c s then f s else g s := by
  intro s
  by_cases h : c s
  · simpa only [hc, if_pos h] using hf s
  · simpa only [hc, if_neg h] using hg s

theorem ErrBlind.seq (hf : ErrBlind f) (hg : ErrBlind g) : ErrBlind fun s => f s >>= g := by
  intro s
  dsimp only
  rw [hf s]
  cases f s with
  | ok u => exact hg u
  | error e => rfl

/-- A stage that computes a value from the stores, then goes on with it. -/
theorem ErrBlind.compute {x : State → Except ErrCode α} {k : α → State → Except ErrCode State}
    (hx : ∀ s, x s.endOk = x s) (hk : ∀ a, ErrBlind (k a)) : ErrBlind fun s => x s >>= fun a => k a s := by
  intro s
  dsimp only
  rw [hx s]
  cases x s with
  | ok a => exact hk a s
  | error e => rfl

theorem errBlind_stageAnalyze : ErrBlind stageAnalyze :=
  .ite (fun _ => .rfl) (.raise _) (.write fun _ => rfl)

theorem errBlind_stageBuild : ErrBlind stageBuild :=
  .compute (fun _ => rfl) fun _ => .write fun _ => rfl

theorem errBlind_stageGencodes : ErrBlind stageGencodes :=
  .ite (fun _ => .rfl) (.raise _) (.ite (fun _ => .rfl) (.raise _) (.write fun _ => rfl))

theorem errBlind_stageMapbits : ErrBlind stageMapbits :=
  .compute (fun _ => rfl) fun _ => .ite (fun _ => .rfl) (.raise _) (.write fun _ => rfl)

theorem errBlind_stagePack : ErrBlind stagePack :=
  .ite (fun _ => .rfl) (.raise _) (.write fun _ => rfl)

theorem errBlind_stageTser : ErrBlind stageTser :=
  .ite (fun _ => .rfl) (.raise _) (.ite (fun _ => .rfl) (.raise _) (.write fun _ => rfl))

theorem errBlind_stageAssemble : ErrBlind stageAssemble :=
  .ite (fun _ => .rfl) (.raise _) (.write fun _ => rfl)

theorem errBlind_stageEmptyFile : ErrBlind stageEmptyFile :=
  .ite (fun _ => .rfl) (.raise _) (.write fun _ => rfl)

theorem errBlind_stageParse : ErrBlind stageParse :=
  .compute (fun _ => rfl) fun _ => .write fun _ => rfl

theorem errBlind_stageTdes : ErrBlind stageTdes := by
  intro s
  rw [stageTdes, stageTdes, State.endOk_ser]
  match des s.ser with
  | none | some .absent => rfl
  | some (.node f c l r) =>
    have htree (t : HuffTree) : ErrBlind fun s =>
        if s.cfg.nodeMax < t.nodes ∨ s.cfg.depthMax < t.depth then .error .capacity else .ok (s.setTree t) :=
      .ite (fun _ => .rfl) (.raise _) (.write fun _ => rfl)
    exact htree (.node f c l r) s

theorem errBlind_stageUnpack : ErrBlind stageUnpack :=
  .ite (fun _ => .rfl) (.raise _)
    (.compute (fun _ => rfl) fun _ => .ite (fun _ => .rfl) (.raise _) (.write fun _ => rfl))

theorem errBlind_stagesBuildtxt : ErrBlind stagesBuildtxt :=
  errBlind_stageAnalyze.seq (errBlind_stageBuild.seq errBlind_stageGencodes)

theorem errBlind_stagesEncode : ErrBlind stagesEncode :=
  errBlind_stageAnalyze.seq (errBlind_stageBuild.seq (errBlind_stageGencodes.seq (errBlind_stageMapbits.seq
    (errBlind_stagePack.seq (errBlind_stageTser.seq errBlind_stageAssemble)))))

theorem errBlind_stagesDecode : ErrBlind stagesDecode :=
  errBlind_stageParse.seq (.ite (fun _ => .rfl) (.write fun _ => rfl)
    (errBlind_stageTdes.seq (.ite (fun _ => .rfl) (.write fun _ => rfl) errBlind_stageUnpack)))

/-- ENCODE's two arms: it looks at the length of TXI to choose. -/
theorem errBlind_encodeArms : ErrBlind fun s => if s.txi.length = 0 then stageEmptyFile s else stagesEncode s :=
  .ite (fun _ => .rfl) errBlind_stageEmptyFile errBlind_stagesEncode

/-- A command on what the command before it left ends as its stage does without the end between them. -/
theorem ErrBlind.endCommand_endOk (hf : ErrBlind f) (h : f s = .ok t) : endCommand z (f s.endOk) = .next t.endOk := by
  rw [hf s, h]
  rfl

/-- A command whose emptied state is the one its stages start from does not look at the error registers. -/
theorem ErrBlind.endCommand_eq (hf : ErrBlind f) (s : State) :
    endCommand s (f s) = endCommand s.endOk (f s.endOk) := by
  rw [hf s]
  cases f s <;> rfl

theorem ErrBlind.endCommand_congr (hf : ErrBlind f) (h : s.endOk = t.endOk) :
    endCommand s (f s) = endCommand t (f t) := by
  rw [hf.endCommand_eq s, h, ← hf.endCommand_eq t]

/-- CLEAR_WORK keeps TXI, BYI, the model's own fields and, until the command ends, the error registers (R252). -/
theorem endOk_clearWork_congr (htxi : s.txi = t.txi) (hbyi : s.byi = t.byi) (hcfg : s.cfg = t.cfg)
    (hhost : s.host = t.host) (hreply : s.reply = t.reply) : s.clearWork.endOk = t.clearWork.endOk := by
  simp only [State.clearWork, State.endOk, htxi, hbyi, hcfg, hhost, hreply]

end ErrorRegisters

/-! ### The stages of BUILDTXT and ENCODE put together (R150, R154, R156) -/

section EncoderStages

variable {s t : State} {tree : HuffTree} {bits : BitStr}

/-- BUILD has room for the table of a text of fewer than 2^32 symbols, whose counts cannot overflow. -/
theorem exists_builtFrom_countSymbols (hlen : s.txi.length < 4294967296)
    (hnodes : 2 * s.txi.dedup.length ≤ s.cfg.nodeMax) :
    ∃ tree, buildWith keyBefore s.cfg.nodeMax (countSymbols s.txi) = .ok tree ∧
      BuiltFrom (countSymbols s.txi) tree :=
  exists_builtFrom (length_countSymbols s.txi ▸ hnodes) (totalCount_countSymbols hlen ▸ hlen)

theorem stagesBuildtxt_of_build (hb : buildWith keyBefore s.cfg.nodeMax (countSymbols s.txi) = .ok tree)
    (hsyms : (countSymbols s.txi).length ≤ s.cfg.symsMax) (hdepth : tree.depth ≤ s.cfg.depthMax)
    (hcodes : (codesOf tree).length ≤ s.cfg.symsMax) :
    stagesBuildtxt s = .ok { s with ft := countSymbols s.txi, tree := tree, ct := codesOf tree } :=
  stagesBuildtxt_ok.mpr ⟨_, stageAnalyze_ok.mpr ⟨hsyms, rfl⟩, _, stageBuild_ok.mpr ⟨tree, hb, rfl⟩,
    stageGencodes_ok.mpr ⟨hdepth, hcodes, rfl⟩⟩

/-- What ENCODE leaves of a text whose table has the tree `tree`, the text's codes being `bits` (R154). -/
def encodedState (s : State) (tree : HuffTree) (bits : BitStr) : State :=
  { s with
    ft := countSymbols s.txi, tree := tree, ct := codesOf tree, bit := bits, pay := packBytes (padded bits)
    ser := ser tree
    byo := container 1#8 (padByte bits.length) (BitVec.ofNat 32 s.txi.length) (ser tree) (packBytes (padded bits))
    hdrVer := 1#32, hdrPad := (padByte bits.length).setWidth 32, hdrOlen := BitVec.ofNat 32 s.txi.length
    hdrTlen := BitVec.ofNat 32 (ser tree).length }

/-- ENCODE goes on where BUILDTXT ends. -/
theorem stagesEncode_ok_iff_buildtxt : stagesEncode s = .ok t ↔
    ∃ s₁, stagesBuildtxt s = .ok s₁ ∧ ∃ s₂, stageMapbits s₁ = .ok s₂ ∧ ∃ s₃, stagePack s₂ = .ok s₃ ∧
      ∃ s₄, stageTser s₃ = .ok s₄ ∧ stageAssemble s₄ = .ok t := by
  have hseq : stagesEncode s = (do
      let s ← stagesBuildtxt s
      let s ← stageMapbits s
      let s ← stagePack s
      let s ← stageTser s
      stageAssemble s) := by simp only [stagesEncode, stagesBuildtxt, bind_assoc]
  rw [hseq]
  simp only [bind_ok]

/-- The container is longer than its parts, so its room is room for PACK and TSER too. -/
theorem stagesEncode_of_buildtxt
    (hb : stagesBuildtxt s = .ok { s with ft := countSymbols s.txi, tree := tree, ct := codesOf tree })
    (hdepth : tree.depth ≤ s.cfg.depthMax) (hmap : mapBits (codesOf tree) s.txi = .ok bits)
    (hbits : bits.length ≤ s.cfg.bitMax)
    (hbytes : 14 + (ser tree).length + (bits.length + padCount bits.length) / 8 ≤ s.cfg.bytMax) :
    stagesEncode s = .ok (encodedState s tree bits) := by
  refine stagesEncode_ok_iff_buildtxt.mpr ⟨_, hb, _, stageMapbits_ok.mpr ⟨bits, hmap, hbits, rfl⟩,
    _, stagePack_ok.mpr ⟨(Nat.le_add_left _ _).trans hbytes, rfl⟩,
    _, stageTser_ok.mpr ⟨hdepth, ?_, rfl⟩, stageAssemble_ok.mpr ⟨?_, ?_⟩⟩
  · exact ((Nat.le_add_left _ 14).trans (Nat.le_add_right _ _)).trans hbytes
  · rw [length_assembled]
    exact length_packBytes_padded bits ▸ hbytes
  · rw [assembled_of_hdrPad (n := bits.length) rfl, encodedState, ← ofNat_padCount]
    rfl

/-- "the special branch gives the same state the general branch would give" (R154). -/
theorem stagesEncode_of_stageEmptyFile (hempty : s.txi = []) (h : stageEmptyFile s.clearWork = .ok t) :
    stagesEncode s.clearWork = .ok t := by
  obtain ⟨hcap, rfl⟩ := stageEmptyFile_ok.mp h
  have htable : countSymbols s.clearWork.txi = [] := by rw [State.clearWork_txi, hempty]; rfl
  have hlen : s.clearWork.txi.length = 0 := List.length_eq_zero_iff.mpr hempty
  have hbuild : stagesBuildtxt s.clearWork = .ok { s.clearWork with
      ft := countSymbols s.clearWork.txi, tree := .absent, ct := codesOf .absent } :=
    stagesBuildtxt_of_build (by rw [htable]; rfl) (by rw [htable]; exact Nat.zero_le _) (Nat.zero_le _) (Nat.zero_le _)
  have hmap : mapBits (codesOf .absent) s.clearWork.txi = .ok [] := by rw [State.clearWork_txi, hempty]; rfl
  rw [stagesEncode_of_buildtxt hbuild (Nat.zero_le _) hmap (Nat.zero_le _) hcap, encodedState, htable, hlen]
  rfl

/-- A text there is room for (R154): its codes are no longer than its table, and `RoomFor` allows each node of its tree
66 bytes of text. -/
theorem exists_stagesEncode_of_roomFor (hne : s.txi ≠ []) (h : RoomFor s) :
    ∃ tree, stagesEncode s = .ok (encodedState s tree (textCodes (codesOf tree) s.txi)) := by
  obtain ⟨hlen, hsyms, hnodes, hdepth, hbits, hbytes⟩ := h
  obtain ⟨tree, hbuild, htree⟩ := exists_builtFrom_countSymbols hlen hnodes
  have hcodes : ∀ c ∈ s.txi, (SymMap.get? c (codesOf tree)).isSome = true := fun c hc =>
    htree.isSome_code ((mem_keys_countSymbols s.txi c).mpr hc)
  have hlength := length_textCodes_le (text := s.txi) (htree.length_code_le (countSymbols_ne_nil hne))
  have hser := length_ser_le tree
  have htreeNodes := htree.nodes
  have htreeDepth := htree.depth
  have htable := htree.length_codesOf (wf_countSymbols s.txi)
  rw [length_countSymbols] at hlength htreeNodes htreeDepth htable
  have hpacked := add_padCount_div_le (textCodes (codesOf tree) s.txi).length
  refine ⟨tree, stagesEncode_of_buildtxt ?_ ?_ (mapBits_of_codes hcodes) ?_ ?_⟩
  · exact stagesBuildtxt_of_build hbuild (length_countSymbols s.txi ▸ hsyms) (htreeDepth.trans hdepth) (htable ▸ hsyms)
  · exact htreeDepth.trans hdepth
  · exact hlength.trans hbits
  · omega

theorem execAll_cons {i : Instr} {is : List Instr} (h : exec i s = .next t) : execAll (i :: is) s = execAll is t := by
  rw [execAll, h]

/-- ENCODE without error, of a text or of none, is its general arm (R154). -/
theorem stagesEncode_of_exec (h : exec .encode s = .next t) (he : t.err = false) :
    ∃ u, stagesEncode s.clearWork = .ok u ∧ t = u.endOk := by
  obtain ⟨u, hu, rfl⟩ := endCommand_next_ok h he
  refine ⟨u, ?_, rfl⟩
  split at hu
  · next hempty => exact stagesEncode_of_stageEmptyFile (List.length_eq_zero_iff.mp hempty) hu
  · exact hu

end EncoderStages

/-! ### The obligations -/

/-- Settles O37: with room for the text every stage of ENCODE completes. -/
theorem encodeCompletes : Obligations.EncodeCompletes := by
  intro s hne hroom
  obtain ⟨tree, htree⟩ := exists_stagesEncode_of_roomFor (s := s.clearWork) hne { hroom with }
  refine ⟨countSymbols s.txi, tree, codesOf tree, textCodes (codesOf tree) s.txi,
    packBytes (padded (textCodes (codesOf tree) s.txi)), padByte (textCodes (codesOf tree) s.txi).length, ?_, rfl, ?_, ?_⟩
  · rw [exec, execEncode, if_neg (mt List.length_eq_zero_iff.mp hne), htree]
    rfl
  · rw [toNat_padByte]
    exact unpackBits_packBytes_padded _
  · rw [toNat_padByte]
    exact padCount_le _

/-- Settles O38: ENCODE goes through the stages of the five commands, none of which looks at the error registers the command
before it has written. -/
theorem encodeEqualsStages : Obligations.EncodeEqualsStages := by
  intro s t h he
  obtain ⟨u, hu, rfl⟩ := stagesEncode_of_exec h he
  obtain ⟨s₁, h₁, s₂, h₂, s₃, h₃, s₄, h₄, h₅⟩ := stagesEncode_ok_iff_buildtxt.mp hu
  have hbuildtxt : exec .buildtxt s = .next s₁.endOk := by
    rw [exec, execBuildtxt, h₁]
    rfl
  have hmapbits : exec .mapbits s₁.endOk = .next s₂.endOk := errBlind_stageMapbits.endCommand_endOk h₂
  have hpack : exec .pack s₂.endOk = .next s₃.endOk := errBlind_stagePack.endCommand_endOk h₃
  have htser : exec .tser s₃.endOk = .next s₄.endOk := errBlind_stageTser.endCommand_endOk h₄
  have hassemble : exec .assemble s₄.endOk = .next u.endOk := errBlind_stageAssemble.endCommand_endOk h₅
  rw [execAll_cons hbuildtxt, execAll_cons hmapbits, execAll_cons hpack, execAll_cons htser, execAll_cons hassemble]
  rfl

/-- Settles O30: BUILD has room for the table of the text, and GENCODES for its tree. -/
theorem buildtxtBuildsWorkingState : Obligations.BuildtxtBuildsWorkingState := by
  intro s hlen hsyms hnodes hdepth
  obtain ⟨tree, hbuild, htree⟩ := exists_builtFrom_countSymbols hlen hnodes
  rw [← length_countSymbols] at hsyms hdepth
  have htreeDepth : tree.depth ≤ s.cfg.depthMax := htree.depth.trans hdepth
  have hcodes : (codesOf tree).length ≤ s.cfg.symsMax := (htree.length_codesOf (wf_countSymbols s.txi)).trans_le hsyms
  refine ⟨countSymbols s.txi, tree, codesOf tree, ?_, ?_, exec_build_ok hbuild, exec_gencodes_ok htreeDepth hcodes⟩
  · rw [exec, execBuildtxt, stagesBuildtxt_of_build (s := s.clearWork) hbuild hsyms htreeDepth hcodes]
    rfl
  · rw [exec, execAnalyze, stageAnalyze_ok.mpr ⟨hsyms, rfl⟩]
    rfl

/-- Settles O31: the walk over the text meets a symbol without a code, or ends with all the codes, whose bits are then
checked. -/
theorem mapbitsConcatenatesCodes : Obligations.MapbitsConcatenatesCodes := by
  intro s
  refine ⟨fun hcodes hcap => ?_, fun hcodes hcap => ?_, fun hnone => ?_⟩
  · rw [exec, execMapbits, stageMapbits_ok.mpr ⟨_, mapBits_of_codes hcodes, hcap, rfl⟩]
    rfl
  · rw [exec, execMapbits, stageMapbits_overCapacity hcodes hcap]
    rfl
  · rw [exec, execMapbits, stageMapbits_noCode hnone]
    rfl

/-- Settles O32: PAY packs the padded bits, and byte `k` of it is the byte of the `k`th eight. -/
theorem packPadsAndGroups : Obligations.PackPadsAndGroups := by
  rintro s pad rfl
  refine ⟨fun hcap => ⟨packBytes (padded s.bit), ?_, ?_, ?_⟩, fun hover => ?_⟩
  · rw [exec, execPack, stagePack_ok.mpr ⟨hcap, rfl⟩]
    rfl
  · rw [length_packBytes_padded]
    exact Nat.mul_div_cancel' (Nat.dvd_of_mod_eq_zero (add_padCount_mod _))
  · intro k bit hk hbit
    simp only [getD_packBytes hk, bitsByte_toNat, hbit]
    rfl
  · rw [exec, execPack, stagePack_overCapacity hover]
    rfl

/-- Settles O35: `assembled` is the container spelt out. -/
theorem assembleJoinsContainer : Obligations.AssembleJoinsContainer := by
  intro s
  rw [← length_assembled]
  refine ⟨fun hcap => ⟨assembled s, ?_, rfl, rfl⟩, fun hover => ?_⟩
  · rw [exec, execAssemble, stageAssemble_ok.mpr ⟨hcap, rfl⟩]
    rfl
  · rw [exec, execAssemble, stageAssemble_overCapacity hover]
    rfl

/-- Settles O36: the empty text takes the arm that writes the empty-file container. -/
theorem encodeEmptyText : Obligations.EncodeEmptyText := by
  intro s hempty hcap
  rw [exec, execEncode, if_pos (List.length_eq_zero_iff.mpr hempty),
    stageEmptyFile_ok (s := s.clearWork).mpr ⟨hcap, rfl⟩]
  rfl

/-- Settles O39: CLEAR_WORK leaves nothing else to depend on, and no stage looks at the error registers. -/
theorem macrosForgetWorkingState : Obligations.MacrosForgetWorkingState := by
  intro s₁ s₂ i hi htxi hbyi hcfg hhost hreply
  have hwork := endOk_clearWork_congr htxi hbyi hcfg hhost hreply
  obtain rfl | rfl | rfl := hi
  · exact errBlind_stagesBuildtxt.endCommand_congr hwork
  · exact errBlind_encodeArms.endCommand_congr hwork
  · exact errBlind_stagesDecode.endCommand_congr hwork

end Sys2Proof.Machine

/-! PROOFS of the family 44_decoder.md: the walk along the tree, UNPACK, PARSE, and DECODE with the round trips. -/

namespace Sys2Proof.Machine

/-! ### Descending a tree (R173) -/

section Descend

variable {t : HuffTree} {p q : BitStr} {b : Bool}

theorem HuffTree.child_absent (b : Bool) : HuffTree.absent.child b = .absent := by cases b <;> rfl

theorem HuffTree.descend_absent (q : BitStr) : HuffTree.absent.descend q = .absent := by cases q <;> rfl

theorem HuffTree.descend_nil (t : HuffTree) : t.descend [] = t := by cases t <;> rfl

/-- The first step of a descent is the child the first bit selects. -/
theorem HuffTree.descend_cons (t : HuffTree) (b : Bool) (q : BitStr) : t.descend (b :: q) = (t.child b).descend q := by
  cases t with
  | absent => rw [child_absent, descend_absent, descend_absent]
  | node f s l r => cases b <;> rfl

theorem HuffTree.descend_append (t : HuffTree) (p q : BitStr) : t.descend (p ++ q) = (t.descend p).descend q := by
  induction p generalizing t with
  | nil => rw [descend_nil, List.nil_append]
  | cons b p ih => rw [List.cons_append, descend_cons, descend_cons, ih]

theorem HuffTree.descend_snoc (t : HuffTree) (p : BitStr) (b : Bool) :
    t.descend (p ++ [b]) = (t.descend p).child b := by
  rw [descend_append, descend_cons, descend_nil]

/-- A node to go on from: neither absent nor a leaf. -/
def HuffTree.Inner (t : HuffTree) : Prop := t ≠ .absent ∧ t.isLeaf = false

theorem HuffTree.inner_of_child (h : t.child b ≠ .absent) : t.Inner := by
  cases t with
  | absent => exact absurd (child_absent b) h
  | node f s l r =>
    refine ⟨HuffTree.noConfusion, ?_⟩
    cases b with
    | false => exact isLeaf_of_left h
    | true => exact isLeaf_of_right h

/-- Only from an inner node does a descent lead on to a node. -/
theorem HuffTree.inner_of_descend (hq : q ≠ []) (h : t.descend q ≠ .absent) : t.Inner := by
  cases q with
  | nil => exact absurd rfl hq
  | cons b q =>
    refine inner_of_child (b := b) fun hc => h ?_
    rw [descend_cons, hc, descend_absent]

/-- The path listed for a leaf leads down to it. -/
theorem HuffTree.descend_of_mem_paths {x : Symbol × BitStr} (h : x ∈ t.paths p) :
    ∃ q f, x.2 = p ++ q ∧ t.descend q = .node f (some x.1) .absent .absent := by
  induction t generalizing p with
  | absent => exact absurd h List.not_mem_nil
  | node f s l r ihl ihr =>
    simp only [paths] at h
    split at h
    · next hleaf =>
      obtain ⟨f', s', e⟩ := isLeaf_eq_true.mp hleaf
      cases e
      cases s with
      | none => exact absurd h List.not_mem_nil
      | some c =>
        obtain rfl := List.mem_singleton.mp h
        exact ⟨[], f, (List.append_nil p).symm, rfl⟩
    · rcases List.mem_append.mp h with h | h
      · obtain ⟨q, f', hx, hq⟩ := ihl h
        exact ⟨false :: q, f', by rw [hx, List.append_assoc]; rfl, hq⟩
      · obtain ⟨q, f', hx, hq⟩ := ihr h
        exact ⟨true :: q, f', by rw [hx, List.append_assoc]; rfl, hq⟩

theorem HuffTree.ne_absent_of_mem_paths {x : Symbol × BitStr} (h : x ∈ t.paths p) : t ≠ .absent := by
  rintro rfl
  exact absurd h List.not_mem_nil

/-- The root's own path is empty, so no leaf below it has an empty path. -/
theorem HuffTree.ne_nil_of_mem_paths {x : Symbol × BitStr} (ht : t.isLeaf = false) (h : x ∈ t.paths []) :
    x.2 ≠ [] := by
  obtain ⟨q, f, hx, hq⟩ := descend_of_mem_paths h
  rw [List.nil_append] at hx
  intro hnil
  rw [← hx, hnil, descend_nil] at hq
  rw [hq] at ht
  exact Bool.noConfusion ht

end Descend

/-! ### The walk of UNPACK (R173) -/

section Walk

variable {root t : HuffTree} {bits q : BitStr} {b : Bool} {n : Nat} {f : Count} {c : Symbol}
  {pairs : List (Symbol × BitStr)} {text : List Symbol}

theorem walk_nil (root t : HuffTree) (n : Nat) : walk root t [] (n + 1) = .error .payloadShort := rfl

theorem walk_zero (root t : HuffTree) (bits : BitStr) : walk root t bits 0 = .ok [] := by cases bits <;> rfl

theorem walk_of_absent (h : t.child b = .absent) : walk root t (b :: bits) (n + 1) = .error .traversal := by
  rw [walk, h]

theorem walk_of_inner (h : (t.child b).Inner) :
    walk root t (b :: bits) (n + 1) = walk root (t.child b) bits (n + 1) := by
  obtain ⟨hne, hleaf⟩ := h
  rw [walk]
  split
  · next ha => exact absurd ha hne
  · next hc =>
    rw [hc] at hleaf ⊢
    rw [if_neg (Bool.eq_false_iff.mp hleaf)]

theorem walk_of_leafNoSym (h : t.child b = .node f none .absent .absent) :
    walk root t (b :: bits) (n + 1) = .error .leafNoSym := by
  rw [walk, h]
  rfl

theorem walk_of_leaf (h : t.child b = .node f (some c) .absent .absent) :
    walk root t (b :: bits) (n + 1) = (walk root root bits n).map (c :: ·) := by
  rw [walk, h]
  cases walk root root bits n <;> rfl

/-- Bits that lead to an inner node are used up without a symbol. -/
theorem walk_descend (h : t.descend q ≠ .absent) (hq : q ≠ [] → (t.descend q).isLeaf = false) :
    walk root t (q ++ bits) (n + 1) = walk root (t.descend q) bits (n + 1) := by
  induction q generalizing t with
  | nil => rw [HuffTree.descend_nil, List.nil_append]
  | cons b q ih =>
    rw [HuffTree.descend_cons] at h hq ⊢
    have hleaf := hq (List.cons_ne_nil _ _)
    have hinner : (t.child b).Inner := by
      by_cases hnil : q = []
      · subst hnil
        exact ⟨h, hleaf⟩
      · exact HuffTree.inner_of_descend hnil h
    rw [List.cons_append, walk_of_inner hinner, ih h fun _ => hleaf]

/-- Bits that lead to a node are walked up to the last of them, which is the step to that node. -/
theorem walk_descend_snoc (h : t.descend (q ++ [b]) ≠ .absent) :
    walk root t (q ++ [b] ++ bits) (n + 1) = walk root (t.descend q) (b :: bits) (n + 1) := by
  rw [HuffTree.descend_snoc] at h
  obtain ⟨hne, hleaf⟩ := HuffTree.inner_of_child h
  rw [List.append_assoc, walk_descend hne fun _ => hleaf]
  rfl

/-- The path to a leaf emits its symbol and starts again at the root. -/
theorem walk_leaf (hq : q ≠ []) (h : t.descend q = .node f (some c) .absent .absent) :
    walk root t (q ++ bits) (n + 1) = (walk root root bits n).map (c :: ·) := by
  obtain ⟨p, b, rfl⟩ := List.eq_nil_or_concat' q |>.resolve_left hq
  rw [walk_descend_snoc (by rw [h]; exact HuffTree.noConfusion)]
  rw [HuffTree.descend_snoc] at h
  exact walk_of_leaf h

theorem walk_leafNoSym (hq : q ≠ []) (h : t.descend q = .node f none .absent .absent) :
    walk root t (q ++ bits) (n + 1) = .error .leafNoSym := by
  obtain ⟨p, b, rfl⟩ := List.eq_nil_or_concat' q |>.resolve_left hq
  rw [walk_descend_snoc (by rw [h]; exact HuffTree.noConfusion)]
  rw [HuffTree.descend_snoc] at h
  exact walk_of_leafNoSym h

/-- The paths of leaves emit their symbols, whatever comes after them. -/
theorem walk_pairs (hpairs : ∀ x ∈ pairs, x ∈ root.paths [] ∧ x.2 ≠ []) :
    walk root root (pairs.flatMap Prod.snd ++ bits) (pairs.length + n) =
      (walk root root bits n).map (pairs.map Prod.fst ++ ·) := by
  induction pairs with
  | nil =>
    rw [List.length_nil, Nat.zero_add]
    exact (congrFun Except.map_id _).symm
  | cons x pairs ih =>
    obtain ⟨⟨hmem, hne⟩, hrest⟩ := List.forall_mem_cons.mp hpairs
    obtain ⟨q, f, hx, hq⟩ := HuffTree.descend_of_mem_paths hmem
    rw [List.nil_append] at hx
    have hlen : (x :: pairs).length + n = pairs.length + n + 1 := by rw [List.length_cons]; omega
    rw [hlen, List.flatMap_cons, List.append_assoc, hx, walk_leaf (hx ▸ hne) hq, ih hrest]
    cases walk root root bits n <;> rfl

/-- The paths of as many leaves as symbols are asked for make the text. -/
theorem walk_pairs_all (hpairs : ∀ x ∈ pairs, x ∈ root.paths [] ∧ x.2 ≠ []) (rest : BitStr) :
    walk root root (pairs.flatMap Prod.snd ++ rest) pairs.length = .ok (pairs.map Prod.fst) := by
  have hwalk := walk_pairs (bits := rest) (n := 0) hpairs
  rwa [Nat.add_zero, walk_zero, Except.map, List.append_nil] at hwalk

/-- Bits after the last symbol are never looked at (R173). -/
theorem walk_append (h : walk root t bits n = .ok text) (more : BitStr) : walk root t (bits ++ more) n = .ok text := by
  induction bits generalizing t n text with
  | nil =>
    cases n with
    | zero => rwa [walk_zero] at h ⊢
    | succ n => cases h
  | cons b bits ih =>
    cases n with
    | zero => rwa [walk_zero] at h ⊢
    | succ n =>
      rw [List.cons_append]
      cases hc : t.child b with
      | absent => rw [walk_of_absent hc] at h; cases h
      | node f s l r =>
        by_cases hleaf : (t.child b).isLeaf = true
        · obtain ⟨f', s', hleaf⟩ := HuffTree.isLeaf_eq_true.mp hleaf
          cases s' with
          | none => rw [walk_of_leafNoSym hleaf] at h; cases h
          | some c =>
            rw [walk_of_leaf hleaf] at h ⊢
            cases hw : walk root root bits n with
            | error e => rw [hw] at h; cases h
            | ok out => rw [ih hw, ← hw, h]
        · have hinner : (t.child b).Inner := ⟨by rw [hc]; exact HuffTree.noConfusion, Bool.eq_false_iff.mpr hleaf⟩
          rw [walk_of_inner hinner] at h ⊢
          exact ih h

end Walk

/-! ### UNPACK (R172) -/

section Unpack

variable {s : State} {text : List Symbol} {e : ErrCode}

theorem length_unpackBits (pay : List Byte) : (unpackBits pay).length = 8 * pay.length := by
  induction pay with
  | nil => rfl
  | cons x pay ih =>
    rw [unpackBits, List.flatMap_cons, List.length_append, ← unpackBits, ih, List.length_cons, Nat.mul_succ,
      Nat.add_comm]
    rfl

/-- More padding than there are bits keeps none, as the subtraction of natural numbers does. -/
theorem keptBits_eq (pay : List Byte) (pad : Word) :
    keptBits pay pad = (unpackBits pay).take (8 * pay.length - pad.toNat) := by
  unfold keptBits
  congr 1
  split <;> omega

theorem length_keptBits (pay : List Byte) (pad : Word) : (keptBits pay pad).length = 8 * pay.length - pad.toNat := by
  rw [keptBits_eq, List.length_take, length_unpackBits]
  omega

theorem unpackText_of_tree {tree : HuffTree} (h : tree ≠ .absent) (bits : BitStr) (n : Nat) :
    unpackText tree bits n = walk tree tree bits n := by
  unfold unpackText
  split
  · next hend => rw [hend.resolve_right h, walk_zero]
  · rfl

/-- Bits after those the text is made of do not change it. -/
theorem unpackText_append {tree : HuffTree} {bits : BitStr} {n : Nat} (h : unpackText tree bits n = .ok text)
    (more : BitStr) : unpackText tree (bits ++ more) n = .ok text := by
  unfold unpackText at h ⊢
  split at h
  · next hend => rwa [if_pos hend]
  · next hend => rw [if_neg hend, walk_append h]

/-- As many paths as symbols are asked for make the text; without a tree there is no path. -/
theorem unpackText_pairs {tree : HuffTree} {pairs : List (Symbol × BitStr)} (rest : BitStr)
    (htree : tree.isLeaf = false) (hpairs : ∀ x ∈ pairs, x ∈ tree.paths []) :
    unpackText tree (pairs.flatMap Prod.snd ++ rest) pairs.length = .ok (pairs.map Prod.fst) := by
  by_cases hnil : pairs = []
  · subst hnil
    exact if_pos (.inl rfl)
  · obtain ⟨x, hx⟩ := List.exists_mem_of_ne_nil _ hnil
    rw [unpackText_of_tree (HuffTree.ne_absent_of_mem_paths (hpairs x hx))]
    exact walk_pairs_all (fun x hx => ⟨hpairs x hx, HuffTree.ne_nil_of_mem_paths htree (hpairs x hx)⟩) rest

theorem exec_unpack_ok (hbits : 8 * s.pay.length - s.hdrPad.toNat ≤ s.cfg.bitMax)
    (htext : unpackText s.tree (keptBits s.pay s.hdrPad) s.hdrOlen.toNat = .ok text)
    (hlen : text.length ≤ s.cfg.txtMax) : exec .unpack s = .next { s with
      bit := keptBits s.pay s.hdrPad, txo := text, err := false, errcode := 0#32 } := by
  rw [exec, execUnpack, stageUnpack_ok.mpr ⟨(length_keptBits _ _).trans_le hbits, text, htext, hlen, rfl⟩]
  rfl

theorem exec_unpack_error (h : stageUnpack s = .error e) :
    exec .unpack s = .next { s with bit := [], txo := [], err := true, errcode := e.code } := by
  rw [exec, execUnpack, h]
  rfl

/-- A check before the rest of a stage: what it raises, or what the rest raises where it does not fire. -/
theorem check_error {α : Type} {c : Prop} [Decidable c] {e' : ErrCode} {x : Except ErrCode α} :
    (if c then .error e' else x) = .error e ↔ (c ∧ e = e') ∨ (¬ c ∧ x = .error e) := by
  by_cases h : c <;> simp [h, eq_comm]

/-- Where UNPACK raises: at the bits' capacity, in the walk, at the text's capacity. -/
theorem stageUnpack_error : stageUnpack s = .error e ↔
    (s.cfg.bitMax < 8 * s.pay.length - s.hdrPad.toNat ∧ e = .capacity) ∨
      (8 * s.pay.length - s.hdrPad.toNat ≤ s.cfg.bitMax ∧
        (unpackText s.tree (keptBits s.pay s.hdrPad) s.hdrOlen.toNat = .error e ∨
          ∃ text, unpackText s.tree (keptBits s.pay s.hdrPad) s.hdrOlen.toNat = .ok text ∧
            s.cfg.txtMax < text.length ∧ e = .capacity)) := by
  unfold stageUnpack
  dsimp only
  rw [length_keptBits, check_error, bind_error, Nat.not_lt]
  simp only [check_error, reduceCtorEq, and_false, or_false]

/-- After the paths of fewer leaves than symbols asked for, an error of the walk from the root is UNPACK's. -/
theorem exec_unpack_walkError {pairs : List (Symbol × BitStr)} {rest : BitStr}
    (hbits : 8 * s.pay.length - s.hdrPad.toNat ≤ s.cfg.bitMax) (htree : s.tree ≠ .absent)
    (hpairs : ∀ x ∈ pairs, x ∈ s.tree.paths [] ∧ x.2 ≠ [])
    (hkept : keptBits s.pay s.hdrPad = pairs.flatMap Prod.snd ++ rest) (hmore : pairs.length < s.hdrOlen.toNat)
    (hwalk : ∀ n, walk s.tree s.tree rest (n + 1) = .error e) :
    exec .unpack s = .next { s with bit := [], txo := [], err := true, errcode := e.code } := by
  obtain ⟨n, hn⟩ : ∃ n, s.hdrOlen.toNat = pairs.length + (n + 1) := Nat.exists_eq_add_of_lt hmore
  refine exec_unpack_error (stageUnpack_error.mpr (.inr ⟨hbits, .inl ?_⟩))
  rw [unpackText_of_tree htree, hkept, hn, walk_pairs hpairs, hwalk n]
  rfl

end Unpack

/-! ### The checks of PARSE (R170, R171) -/

section ParseChecks

variable {b : List Byte}

/-- A check that raises, its condition restated, and a command's end after it. -/
theorem endCommand_check {α : Type} {c c' : Prop} [Decidable c] [Decidable c'] {e : ErrCode} {x : Except ErrCode α}
    {k : α → Except ErrCode State} {z t : State} (hc : c ↔ c') (h : ¬ c → endCommand z (x >>= k) = .next t) :
    endCommand z ((if c then .error e else x) >>= k) = .next (if c' then z.takeError e else t) := by
  by_cases hcase : c
  · rw [if_pos hcase, if_pos (hc.mp hcase)]
    rfl
  · rw [if_neg hcase, if_neg (mt hc.mpr hcase)]
    exact h hcase

theorem byteAt_eq_iff {i n : Nat} (hn : n < 256) : byteAt b i = BitVec.ofNat 8 n ↔ (byteAt b i).toNat = n := by
  rw [← BitVec.toNat_inj, toNat_ofNat_byte hn]

/-- The magic byte by byte (R80). -/
theorem take_eq_magicBytes_iff (h : 14 ≤ b.length) : b.take 4 = magicBytes ↔
    (byteAt b 0).toNat = 0x48 ∧ (byteAt b 1).toNat = 0x55 ∧ (byteAt b 2).toNat = 0x46 ∧ (byteAt b 3).toNat = 0x46 := by
  match b, h with
  | b0 :: b1 :: b2 :: b3 :: rest, _ =>
    simp only [← byteAt_eq_iff (show 0x48 < 256 by decide), ← byteAt_eq_iff (show 0x55 < 256 by decide),
      ← byteAt_eq_iff (show 0x46 < 256 by decide)]
    simp [magicBytes, byteAt]

/-- Bytes that are there stay where they are when more are appended. -/
theorem byteAt_append {i : Nat} (h : i < b.length) (more : List Byte) : byteAt (b ++ more) i = byteAt b i :=
  List.getD_append _ _ _ _ h

theorem be32At_append {off : Nat} (h : off + 4 ≤ b.length) (more : List Byte) :
    be32At (b ++ more) off = be32At b off := by
  rw [be32At, byteAt_append (by omega), byteAt_append (by omega), byteAt_append (by omega), byteAt_append (by omega),
    be32At]

/-- Bytes appended to a container that parses go to the payload. -/
theorem parseContainer_append {c : Parts} (h : parseContainer b = .ok c) (more : List Byte) :
    parseContainer (b ++ more) = .ok { c with pay := c.pay ++ more } := by
  obtain ⟨hlen, hmagic, hver, hpad, htlen, rfl⟩ := parseContainer_ok.mp h
  have hseg : 14 + (be32At b 10).toNat ≤ b.length := by omega
  refine parseContainer_ok.mpr ⟨?_, ?_, ?_, ?_, ?_, ?_⟩
  · rw [List.length_append]; omega
  · rw [List.take_append_of_le_length (by omega), hmagic]
  · rw [byteAt_append (by omega), hver]
  · rw [byteAt_append (by omega)]; exact hpad
  · rw [be32At_append (by omega), List.length_append]; omega
  · rw [be32At_append (by omega), be32At_append (by omega), byteAt_append (by omega), byteAt_append (by omega),
      List.drop_append_of_le_length hseg, List.drop_append_of_le_length (by omega), List.take_append_of_le_length]
    rw [List.length_drop]
    exact htlen

/-- The payload is a slice of the container. -/
theorem length_pay_le {c : Parts} (h : parseContainer b = .ok c) : c.pay.length ≤ b.length := by
  obtain ⟨-, -, -, -, -, rfl⟩ := parseContainer_ok.mp h
  rw [List.length_drop]
  exact Nat.sub_le _ _

end ParseChecks

/-! ### The obligations on UNPACK and PARSE -/

/-- Settles O40: each check on bytes is the statement's on their numbers. -/
theorem parseChecksInOrder : Obligations.ParseChecksInOrder := by
  intro s at_ tlen hat htl
  have hat' : ∀ i, at_ i = (byteAt s.byi i).toNat := hat
  have holen : be32At s.byi 6 = BitVec.ofNat 32 (at_ 6 * 16777216 + at_ 7 * 65536 + at_ 8 * 256 + at_ 9) := by
    rw [hat', hat', hat', hat']; rfl
  have htlen : be32At s.byi 10 = BitVec.ofNat 32 tlen := by
    rw [htl, hat', hat', hat', hat']; rfl
  have htlenNat : (be32At s.byi 10).toNat = tlen := by
    rw [htl, hat', hat', hat', hat']; exact be32_toNat _ _ _ _
  rw [exec, execParse, stageParse, parseContainer]
  refine endCommand_check Iff.rfl fun hshort => endCommand_check ?_ fun _ => endCommand_check ?_ fun hver =>
    endCommand_check ?_ fun _ => endCommand_check ?_ fun _ => ?_
  · rw [Ne, take_eq_magicBytes_iff (Nat.not_lt.mp hshort), hat', hat', hat', hat']
    tauto
  · rw [Ne, Ne, hat', byteAt_eq_iff (by decide)]
  · rw [hat']
  · rw [htlenNat]
  · rw [htlenNat, holen, htlen, Decidable.not_not.mp hver, hat' 5, BitVec.ofNat_toNat]
    rfl

/-- Settles O42: the walk emits the symbols of the paths, one leaf after another. -/
theorem unpackWalksPaths : Obligations.UnpackWalksPaths := by
  intro s pairs rest htree hpairs holen hkept hbits htxt
  rw [← keptBits_eq] at hkept
  have htext := unpackText_pairs rest htree hpairs
  rw [← hkept, ← holen] at htext
  rw [exec_unpack_ok hbits htext ((List.length_map _).trans_le htxt), hkept]

/-- Settles O43: the text is empty without a walk. -/
theorem unpackNothingToWalk : Obligations.UnpackNothingToWalk := by
  intro s hnone hbits
  have hend : s.hdrOlen.toNat = 0 ∨ s.tree = .absent := hnone.imp_left fun h => by rw [h]; rfl
  rw [exec_unpack_ok hbits (if_pos hend) (Nat.zero_le _), keptBits_eq]

/-- Settles O44: each error stands at the one place of UNPACK that raises it, three of them at a turn of the walk. -/
theorem unpackWalkErrors : Obligations.UnpackWalkErrors := by
  intro s
  refine ⟨fun hover => exec_unpack_error (stageUnpack_error.mpr (.inl ⟨hover, rfl⟩)), ?_⟩
  intro hbits pairs q rest b htree hpairs
  rw [← keptBits_eq]
  refine ⟨?_, ?_, ?_, ?_⟩
  · intro hkept hmore hq hinner
    refine exec_unpack_walkError (e := .payloadShort) hbits htree hpairs hkept hmore fun n => ?_
    rw [← List.append_nil q, walk_descend hq hinner, walk_nil]
  · intro hkept hmore hq hinner hstep
    refine exec_unpack_walkError (e := .traversal) hbits htree hpairs hkept hmore fun n => ?_
    rw [HuffTree.descend_snoc] at hstep
    rw [walk_descend hq hinner, walk_of_absent hstep]
  · rintro hkept hmore hq ⟨f, hleaf⟩
    exact exec_unpack_walkError (e := .leafNoSym) hbits htree hpairs hkept hmore fun n => walk_leafNoSym hq hleaf
  · intro hkept holen hlong
    have htext : unpackText s.tree (keptBits s.pay s.hdrPad) s.hdrOlen.toNat = .ok (pairs.map Prod.fst) := by
      rw [unpackText_of_tree htree, hkept, holen, walk_pairs_all hpairs]
    have hlong' : s.cfg.txtMax < (pairs.map Prod.fst).length := hlong.trans_eq (List.length_map _).symm
    exact exec_unpack_error (stageUnpack_error.mpr (.inr ⟨hbits, .inr ⟨_, htext, hlong', rfl⟩⟩))

/-! ### DECODE (R174) -/

section Decode

variable {s t : State} {e : ErrCode} {c : Parts} {tree : HuffTree} {text : List Symbol}

/-- The state PARSE's parts are in: PARSE writes nothing else. -/
def State.withParts (s : State) (c : Parts) : State := s.setParsed c.ser c.pay c.ver c.pad c.olen c.tlen

theorem stageParse_of_parts (h : parseContainer s.byi = .ok c) : stageParse s = .ok (s.withParts c) :=
  stageParse_ok.mpr ⟨c, h, rfl⟩

/-- DECODE's first early end. -/
theorem stagesDecode_of_noSymbol (hparse : parseContainer s.byi = .ok c) (hz : c.olen = 0#32) :
    stagesDecode s = .ok ((s.withParts c).setTxo []) :=
  stagesDecode_ok.mpr ⟨_, stageParse_of_parts hparse, .inl ⟨hz, rfl⟩⟩

/-- DECODE's second early end. -/
theorem stagesDecode_of_noTree (hparse : parseContainer s.byi = .ok c) (hz : c.olen ≠ 0#32)
    (hdes : des c.ser = some .absent) : stagesDecode s = .ok (((s.withParts c).setTree .absent).setTxo []) :=
  stagesDecode_ok.mpr ⟨_, stageParse_of_parts hparse, .inr ⟨hz, _, stageTdes_ok.mpr ⟨_, hdes, rfl, .inl rfl⟩,
    .inl ⟨rfl, rfl⟩⟩⟩

/-- DECODE gone through to UNPACK's text. -/
theorem stagesDecode_of_text (hparse : parseContainer s.byi = .ok c) (hz : c.olen ≠ 0#32)
    (hdes : des c.ser = some tree) (htree : tree ≠ .absent)
    (hfits : tree.nodes ≤ s.cfg.nodeMax ∧ tree.depth ≤ s.cfg.depthMax)
    (hbits : (keptBits c.pay c.pad).length ≤ s.cfg.bitMax)
    (htext : unpackText tree (keptBits c.pay c.pad) c.olen.toNat = .ok text) (htxt : text.length ≤ s.cfg.txtMax) :
    stagesDecode s = .ok ((((s.withParts c).setTree tree).setBit (keptBits c.pay c.pad)).setTxo text) :=
  stagesDecode_ok.mpr ⟨_, stageParse_of_parts hparse, .inr ⟨hz, _, stageTdes_ok.mpr ⟨tree, hdes, rfl, .inr hfits⟩,
    .inr ⟨htree, stageUnpack_ok.mpr ⟨hbits, text, htext, htxt, rfl⟩⟩⟩⟩

/-- The stages of DECODE, seen from a raise: the first stage that raises ends them. -/
theorem stagesDecode_error : stagesDecode s = .error e ↔ stageParse s = .error e ∨
    ∃ p, stageParse s = .ok p ∧ p.hdrOlen ≠ 0#32 ∧ (stageTdes p = .error e ∨
      ∃ q, stageTdes p = .ok q ∧ q.tree ≠ .absent ∧ stageUnpack q = .error e) := by
  unfold stagesDecode
  rw [bind_error]
  refine or_congr_right (exists_congr fun p => and_congr_right fun _ => ?_)
  by_cases hz : p.hdrOlen = 0#32
  · simp [hz]
  · rw [if_neg hz, bind_error]
    simp only [ne_eq, hz, not_false_eq_true, true_and]
    refine or_congr_right (exists_congr fun q => and_congr_right fun _ => ?_)
    by_cases hq : q.tree = .absent <;> simp [hq]

theorem exec_decode_ok (h : stagesDecode s.clearWork = .ok t) : exec .decode s = .next t.endOk := by
  rw [exec, execDecode, h]
  rfl

theorem exec_decode_error (h : stagesDecode s.clearWork = .error e) :
    exec .decode s = .next { clearedWork s with err := true, errcode := e.code } := by
  rw [exec, execDecode, h]
  rfl

/-- DECODE that ends without error has gone through its stages. -/
theorem stagesDecode_of_exec (h : exec .decode s = .next t) (he : t.err = false) :
    ∃ u, stagesDecode s.clearWork = .ok u ∧ t = u.endOk :=
  endCommand_next_ok h he

/-- A longer payload keeps the bits of a shorter one, the padding counted off at its own end. -/
theorem keptBits_append (pay more : List Byte) (pad : Word) :
    ∃ rest, keptBits (pay ++ more) pad = keptBits pay pad ++ rest := by
  have hprefix : keptBits pay pad <+: keptBits (pay ++ more) pad := by
    rw [keptBits_eq, keptBits_eq, List.length_append, unpackBits, unpackBits, List.flatMap_append]
    exact ((List.prefix_append _ _).take _).trans (List.take_prefix_take_left (by omega))
  obtain ⟨rest, h⟩ := hprefix
  exact ⟨rest, h.symm⟩

end Decode

/-! ### The obligations on DECODE alone -/

/-- Settles O56: an error ends DECODE in the CLEAR_WORK state. -/
theorem failedDecodeLeavesNothing : Obligations.FailedDecodeLeavesNothing := by
  intro s t h he
  obtain ⟨e, -, rfl⟩ := endCommand_next_error h he
  rfl

/-- Settles O46: without a symbol to emit TDES is not reached, and the empty record is the text of no tree. -/
theorem decodeEarlyEnds : Obligations.DecodeEarlyEnds := by
  intro s pad olen seg pay h hpad hlen hend
  have hparse : parseContainer s.clearWork.byi = _ := h ▸ parseContainer_container hpad hlen
  by_cases hz : olen = 0#32
  · exact exec_decode_ok (stagesDecode_of_noSymbol hparse hz)
  · have hdes : des seg = some .absent := des_of_treeText (.inl ⟨rfl, hend.resolve_left hz⟩)
    exact exec_decode_ok (stagesDecode_of_noTree hparse hz hdes)

/-- Settles O45: PARSE recovers the parts, TDES the tree of its text, and UNPACK walks the paths. -/
theorem decodeReadsContainer : Obligations.DecodeReadsContainer := by
  intro s tree seg pad pay pairs rest h htext hpad hseg hpos hfit htree hpairs hkept hnodes hdepth hbits htxt
  have holen : (BitVec.ofNat 32 pairs.length).toNat = pairs.length := by
    rw [BitVec.toNat_ofNat, Nat.mod_eq_of_lt hfit]
  have hz : BitVec.ofNat 32 pairs.length ≠ 0#32 := by
    rw [Ne, ← BitVec.toNat_inj, holen]
    exact hpos.ne'
  have hne : tree ≠ .absent := HuffTree.ne_absent_of_mem_paths (hpairs _ (List.getElem_mem hpos))
  have hpadNat : (pad.setWidth 32).toNat = pad.toNat := by
    rw [BitVec.toNat_setWidth]
    omega
  rw [← hpadNat, ← keptBits_eq] at hkept
  have hunpack := unpackText_pairs rest htree hpairs
  rw [← hkept, ← holen] at hunpack
  rw [← hpadNat] at hbits
  have hparse : parseContainer s.clearWork.byi = _ := h ▸ parseContainer_container hpad hseg
  rw [exec_decode_ok (stagesDecode_of_text hparse hz (des_of_treeText htext) hne ⟨hnodes, hdepth⟩
    ((length_keptBits _ _).trans_le hbits) hunpack ((List.length_map _).trans_le htxt)), ← hkept]
  rfl

/-- Settles O47: DECODE's stages are PARSE, TDES and UNPACK from the cleared working state, none of which looks at what
CLEAR_WORK empties. -/
theorem decodeHeaderErrorsFirst : Obligations.DecodeHeaderErrorsFirst := by
  intro s p hp
  refine ⟨fun herr => ?_, fun hok holen q hq => ?_⟩
  · obtain ⟨e, he, rfl⟩ := endCommand_next_error hp herr
    have he' : stageParse s.clearWork = .error e := stageParse_error.mpr (stageParse_error (s := s).mp he)
    exact exec_decode_error (stagesDecode_error.mpr (.inl he'))
  obtain ⟨_, hparse, rfl⟩ := endCommand_next_ok hp hok
  obtain ⟨c, hc, rfl⟩ := stageParse_ok.mp hparse
  have hparse' := stageParse_of_parts (s := s.clearWork) hc
  refine ⟨fun herr => ?_, fun hok htree u hu => ?_⟩
  · obtain ⟨e, he, rfl⟩ := endCommand_next_error hq herr
    have he' : stageTdes (s.clearWork.withParts c) = .error e := stageTdes_error_congr (by rfl) (by rfl) he
    exact exec_decode_error (stagesDecode_error.mpr (.inr ⟨_, hparse', holen, .inl he'⟩))
  obtain ⟨_, htdes, rfl⟩ := endCommand_next_ok hq hok
  obtain ⟨tree, hdes, rfl, hfits⟩ := stageTdes_ok.mp htdes
  have htdes' : stageTdes (s.clearWork.withParts c) = .ok ((s.clearWork.withParts c).setTree tree) :=
    stageTdes_ok.mpr ⟨tree, hdes, rfl, hfits⟩
  refine ⟨fun herr => ?_, fun hok => ?_⟩
  · obtain ⟨e, he, rfl⟩ := endCommand_next_error hu herr
    have he' : stageUnpack ((s.clearWork.withParts c).setTree tree) = .error e :=
      stageUnpack_error_congr (by rfl) (by rfl) (by rfl) (by rfl) (by rfl) he
    exact exec_decode_error (stagesDecode_error.mpr (.inr ⟨_, hparse', holen, .inr ⟨_, htdes', htree, he'⟩⟩))
  · obtain ⟨_, hunpack, rfl⟩ := endCommand_next_ok hu hok
    obtain ⟨hbits, text, htext, htxt, rfl⟩ := stageUnpack_ok.mp hunpack
    exact exec_decode_ok (stagesDecode_of_text hc holen hdes htree (hfits.resolve_left htree) hbits htext htxt)

/-- Settles O48: the appended bytes go to the payload, whose longer bit-string the walk does not look at past the last
symbol. -/
theorem trailingBytesIgnored : Obligations.TrailingBytesIgnored := by
  intro s t extra h he hbits
  obtain ⟨_, hstages, rfl⟩ := stagesDecode_of_exec h he
  obtain ⟨_, hparse, hend⟩ := stagesDecode_ok.mp hstages
  obtain ⟨c, hc, rfl⟩ := stageParse_ok.mp hparse
  have hparse := parseContainer_append hc extra
  obtain ⟨hz, rfl⟩ | ⟨hz, _, htdes, hend⟩ := hend
  · exact ⟨_, exec_decode_ok (stagesDecode_of_noSymbol hparse hz), rfl, rfl⟩
  obtain ⟨tree, hdes, rfl, hfits⟩ := stageTdes_ok.mp htdes
  obtain ⟨htree, rfl⟩ | ⟨htree, hunpack⟩ := hend
  · obtain rfl : tree = .absent := htree
    exact ⟨_, exec_decode_ok (stagesDecode_of_noTree hparse hz hdes), rfl, rfl⟩
  obtain ⟨-, text, htext, htxt, rfl⟩ := stageUnpack_ok.mp hunpack
  obtain ⟨rest, hrest⟩ := keptBits_append c.pay extra c.pad
  have htext' : unpackText tree (keptBits (c.pay ++ extra) c.pad) c.olen.toNat = .ok text :=
    hrest ▸ unpackText_append htext rest
  have hbits' : (keptBits (c.pay ++ extra) c.pad).length ≤ s.cfg.bitMax := by
    have hpay : c.pay.length ≤ s.byi.length := length_pay_le hc
    rw [length_keptBits, List.length_append]
    omega
  exact ⟨_, exec_decode_ok (stagesDecode_of_text hparse hz hdes htree (hfits.resolve_left htree) hbits' htext' htxt),
    rfl, rfl⟩

/-! ### ENCODE, seen from a success (R154) -/

section EncodedText

variable {s t : State} {ft : SymMap Count} {tree : HuffTree} {ct : SymMap BitStr} {text : List Symbol} {bits : BitStr}
  {c : Symbol} {code : BitStr}

/-- MAPBITS without error has put the codes of the text's symbols one after another. -/
theorem exists_pairs_of_mapBits (h : mapBits ct text = .ok bits) : ∃ pairs : List (Symbol × BitStr),
    pairs.map Prod.fst = text ∧ pairs.flatMap Prod.snd = bits ∧ ∀ x ∈ pairs, SymMap.get? x.1 ct = some x.2 := by
  induction text generalizing bits with
  | nil =>
    cases h
    exact ⟨[], rfl, rfl, fun _ hx => absurd hx List.not_mem_nil⟩
  | cons c text ih =>
    rw [mapBits] at h
    cases hc : SymMap.get? c ct with
    | none => rw [hc] at h; cases h
    | some code =>
      rw [hc] at h
      obtain ⟨tail, htail, h⟩ := bind_ok.mp h
      cases h
      obtain ⟨pairs, rfl, rfl, hpairs⟩ := ih htail
      exact ⟨(c, code) :: pairs, rfl, rfl, List.forall_mem_cons.mpr ⟨hc, hpairs⟩⟩

/-- In a tree that is no single leaf the code of a symbol is the path to a leaf that carries it (R93). -/
theorem mem_paths_of_code (htree : tree.isLeaf = false) (h : SymMap.get? c (codesOf tree) = some code) :
    (c, code) ∈ tree.paths [] := by
  have hmem := SymMap.mem_of_get? h
  rw [codesOf_eq_ofList] at hmem
  obtain ⟨y, hy, he⟩ := List.mem_map.mp (SymMap.mem_ofList hmem)
  have hcode : leafCode y.2 = y.2 := if_neg (HuffTree.ne_nil_of_mem_paths htree hy)
  rw [leafEntry, hcode] at he
  exact he ▸ hy

/-- BUILD never makes a tree that is a single leaf: one key has a root above its leaf, more have their merges (R120). -/
theorem isLeaf_of_buildWith {before : QNode → QNode → Bool} {nodeMax : Nat}
    (h : buildWith before nodeMax ft = .ok tree) : tree.isLeaf = false := by
  match ft with
  | [] => cases h; rfl
  | [(c, n)] =>
    obtain ⟨-, h⟩ := check_ok.mp h
    cases h
    rfl
  | x :: y :: ft =>
    have hnodes := (merges_of_buildWith (Nat.le_add_left 2 _) h).nodes
    rw [queueNodes_leafQueue, leafQueue_length, List.length_cons, List.length_cons] at hnodes
    refine Bool.eq_false_iff.mpr fun hleaf => ?_
    obtain ⟨f, s, rfl⟩ := HuffTree.isLeaf_eq_true.mp hleaf
    simp only [HuffTree.nodes] at hnodes
    omega

/-- ENCODE's text in TXI has the tree `tree` and the bits `bits`, each within its capacity. -/
structure Encodes (s : State) (tree : HuffTree) (bits : BitStr) : Prop where
  build : buildWith keyBefore s.cfg.nodeMax (countSymbols s.txi) = .ok tree
  map : mapBits (codesOf tree) s.txi = .ok bits
  depth : tree.depth ≤ s.cfg.depthMax
  bits : bits.length ≤ s.cfg.bitMax
  ser : (ser tree).length ≤ s.cfg.bytMax

/-- The stages of ENCODE, seen from a success: they can leave nothing but `encodedState`. -/
theorem encodes_of_stagesEncode (h : stagesEncode s = .ok t) :
    ∃ tree bits, Encodes s tree bits ∧ t = encodedState s tree bits := by
  obtain ⟨s₁, h₁, s₂, h₂, s₃, h₃, s₄, h₄, s₅, h₅, s₆, h₆, h₇⟩ := stagesEncode_ok.mp h
  obtain ⟨hsyms, rfl⟩ := stageAnalyze_ok.mp h₁
  obtain ⟨tree, hbuild, rfl⟩ := stageBuild_ok.mp h₂
  obtain ⟨hdepth, hcodes, rfl⟩ := stageGencodes_ok.mp h₃
  obtain ⟨bits, hmap, hbits, rfl⟩ := stageMapbits_ok.mp h₄
  obtain ⟨-, rfl⟩ := stagePack_ok.mp h₅
  obtain ⟨-, hser, rfl⟩ := stageTser_ok.mp h₆
  obtain ⟨hbytes, -⟩ := stageAssemble_ok.mp h₇
  have hcap : 14 + (ser tree).length + (packBytes (padded bits)).length ≤ s.cfg.bytMax :=
    (length_assembled _).symm.trans_le hbytes
  rw [length_packBytes_padded] at hcap
  have hmade := stagesEncode_of_buildtxt (stagesBuildtxt_of_build hbuild hsyms hdepth hcodes) hdepth hmap hbits hcap
  exact ⟨tree, bits, ⟨hbuild, hmap, hdepth, hbits, hser⟩, Except.ok.inj (h.symm.trans hmade)⟩

/-- Without the padding as many bits are left as were packed. -/
theorem length_packed_sub_pad (bits : BitStr) :
    8 * (packBytes (padded bits)).length - (padByte bits.length).toNat = bits.length := by
  have hwhole := add_padCount_mod bits.length
  rw [length_packBytes_padded, toNat_padByte]
  omega

/-- The padding cut off again, PACK's bytes give the bits packed. -/
theorem take_unpackBits_packBytes_padded (bits : BitStr) :
    (unpackBits (packBytes (padded bits))).take (8 * (packBytes (padded bits)).length - (padByte bits.length).toNat) =
      bits := by
  rw [length_packed_sub_pad, unpackBits_packBytes_padded, padded, List.take_left]

end EncodedText

/-! ### The round trips (R175 to R177) -/

section RoundTrip

variable {s t : State}

/-- ENCODE of a non-empty text, seen from an end without error; CLEAR_WORK keeps TXI and the capacities. -/
theorem encodes_of_exec (hne : s.txi ≠ []) (h : exec .encode s = .next t) (he : t.err = false) :
    ∃ tree bits, Encodes s tree bits ∧ t = (encodedState s.clearWork tree bits).endOk := by
  obtain ⟨u, hu, rfl⟩ := execEncode_ok hne h he
  obtain ⟨tree, bits, henc, rfl⟩ := encodes_of_stagesEncode hu
  exact ⟨tree, bits, { henc with }, rfl⟩

/-- The bounds of R6 that keep the two length fields of a container from wrapping. -/
theorem State.Inv.caps_le (h : s.Inv) : s.cfg.txtMax ≤ 4294967295 ∧ s.cfg.bytMax ≤ 4294967295 := by
  have hcaps := h.caps
  simp only [Config.wf, Bool.and_eq_true, decide_eq_true_eq] at hcaps
  obtain ⟨⟨⟨htxt, hbyt⟩, -⟩, -⟩ := hcaps
  exact ⟨htxt, hbyt⟩

/-- DECODE of what ENCODE made: TDES reads the tree back and the walk goes along the codes' paths (R175). -/
theorem exec_decode_of_encode (hinv : s.Inv) (hne : s.txi ≠ []) (h : exec .encode s = .next t) (he : t.err = false) :
    ∃ u, exec .decode { t with byi := t.byo } = .next u ∧ u.err = false ∧ u.txo = s.txi := by
  obtain ⟨tree, bits, ⟨hbuild, hmap, hdepth, hbits, hser⟩, rfl⟩ := encodes_of_exec hne h he
  obtain ⟨pairs, htxi, hcodes, hpairs⟩ := exists_pairs_of_mapBits hmap
  obtain ⟨htxtMax, hbytMax⟩ := hinv.caps_le
  have htxi' : s.txi.length ≤ s.cfg.txtMax := hinv.within.txi
  have hlen : s.txi.length = pairs.length := by rw [← htxi, List.length_map]
  have hpos : 0 < pairs.length := hlen ▸ List.length_pos_iff.mpr hne
  have hleaf := isLeaf_of_buildWith hbuild
  have hkept : (unpackBits (packBytes (padded bits))).take
      (8 * (packBytes (padded bits)).length - (padByte bits.length).toNat) = pairs.flatMap Prod.snd ++ [] := by
    rw [take_unpackBits_packBytes_padded, hcodes, List.append_nil]
  have hdecode := decodeReadsContainer
    { (encodedState s.clearWork tree bits).endOk with byi := (encodedState s.clearWork tree bits).byo }
    tree (ser tree) (padByte bits.length) (packBytes (padded bits)) pairs [] (by rw [← hlen]; rfl) (treeText_ser tree)
    ((toNat_padByte _).trans_le (padCount_le _)) (by omega) hpos (by omega) hleaf
    (fun x hx => mem_paths_of_code hleaf (hpairs x hx)) hkept (nodes_buildWith_le hbuild) hdepth
    ((length_packed_sub_pad bits).trans_le hbits) (hlen ▸ htxi')
  exact ⟨_, hdecode, rfl, htxi⟩

/-- The table of one symbol repeated has one key. -/
theorem exists_countSymbols_replicate (c : Symbol) (n : Nat) :
    ∃ m, countSymbols (List.replicate (n + 1) c) = [(c, m)] := by
  have hlen : (countSymbols (List.replicate (n + 1) c)).length = 1 := by
    rw [length_countSymbols, List.replicate_dedup n.succ_ne_zero, List.length_singleton]
  obtain ⟨⟨k, m⟩, hkm⟩ := List.length_eq_one_iff.mp hlen
  have hk : k ∈ (countSymbols (List.replicate (n + 1) c)).map Prod.fst := by rw [hkm]; exact List.mem_singleton_self k
  obtain rfl : k = c := List.eq_of_mem_replicate ((mem_keys_countSymbols _ k).mp hk)
  exact ⟨m, hkm⟩

theorem mapBits_replicate (c : Symbol) (n : Nat) :
    mapBits [(c, [false])] (List.replicate n c) = .ok (List.replicate n false) := by
  have hget : SymMap.get? c [(c, [false])] = some [false] := if_pos rfl
  induction n with
  | zero => rfl
  | succ n ih =>
    rw [List.replicate_succ, mapBits, hget]
    exact bind_ok.mpr ⟨_, ih, rfl⟩

end RoundTrip

/-! ### The obligations on ENCODE and DECODE together -/

/-- Settles O49: the container holds the text of the tree and the text's paths in it. -/
theorem encodeDecodeRoundTrip : Obligations.EncodeDecodeRoundTrip :=
  fun _ _ => exec_decode_of_encode

/-- Settles O50: the empty-file container has originalLength 0. -/
theorem emptyTextRoundTrip : Obligations.EmptyTextRoundTrip := by
  intro s t hempty h he
  rw [exec, execEncode, if_pos (List.length_eq_zero_iff.mpr hempty)] at h
  obtain ⟨_, hu, rfl⟩ := endCommand_next_ok h he
  obtain ⟨-, rfl⟩ := stageEmptyFile_ok.mp hu
  exact ⟨rfl, _, decodeEarlyEnds _ 0#8 0#32 emptyRecord [] rfl (by decide) (by decide) (.inl rfl), rfl, rfl, rfl⟩

/-- Settles O51: one key gives the degenerate tree, whose only leaf is the root's left child. -/
theorem singleSymbolRoundTrip : Obligations.SingleSymbolRoundTrip := by
  intro s t c n hinv htxi h he
  have hne : s.txi ≠ [] := by rw [htxi]; exact List.cons_ne_nil _ _
  have hround := exec_decode_of_encode hinv hne h he
  obtain ⟨tree, bits, ⟨hbuild, hmap, -, -, -⟩, rfl⟩ := encodes_of_exec hne h he
  obtain ⟨m, htable⟩ := exists_countSymbols_replicate c n
  rw [htxi, htable] at hbuild
  obtain ⟨-, hbuild⟩ := check_ok.mp hbuild
  cases hbuild
  have hbits := (mapBits_replicate c (n + 1)).symm.trans (htxi ▸ hmap)
  exact ⟨rfl, (Except.ok.inj hbits).symm, hround⟩

end Sys2Proof.Machine

/-! PROOFS of the family 45_control.md: CLEAR, and the illegal command word. -/

namespace Sys2Proof.Machine

/-! ### Words that are no command's (R191) -/

section IllegalWord

variable {s : State} {w : Word} {rest : List HostTxn}

/-- R72: the decoder rejects every word that is no command's. -/
theorem exists_decode_error (hw : ∀ i, w ≠ encode i) : ∃ r, decode w = .error r := by
  cases hd : decode w with
  | ok i => exact absurd (eq_encode_of_decode hd) (hw i)
  | error r => exact ⟨r, rfl⟩

theorem step_of_rejected {r : DecodeReject} (h : s.host = .wrcsr 1 w :: rest) (hw : decode w = .error r) :
    step s = illegalCommand { s with host := rest } := by
  rw [step, pendingWord_of_cmd h]
  simp only [hw, State.dropTxn_of_host h]

end IllegalWord

/-! ### CLEAR (R190) -/

/-- The inputs emptied, CLEAR_WORK and the error registers zeroed are together the whole of a reset (R40). -/
theorem exec_clear (s : State) : exec .clear s = .next s.resetBlock := rfl

/-! ### The obligations -/

/-- Settles O3: the decoder rejects the word, and error entry writes the error registers alone. -/
theorem illegalWordRaises : Obligations.IllegalWordRaises := by
  intro s w rest h hw
  obtain ⟨r, hr⟩ := exists_decode_error hw
  rw [step_of_rejected h hr]
  rfl

/-- Settles O13: CLEAR leaves the block as a reset does. -/
theorem clearReachesReset : Obligations.ClearReachesReset :=
  exec_clear

end Sys2Proof.Machine

/-! PROOFS of the family 48_reporting.md: the order of the reported entries, and the compression ratio. -/

namespace Sys2Proof.Machine

/-! ### The entries in the order asked for (R200) -/

section OrderedEntries

theorem byFrequency_iff {a b : Symbol × Count} : byFrequency a b = true ↔
    b.2.toNat < a.2.toNat ∨ (a.2.toNat = b.2.toNat ∧ a.1.toNat ≤ b.1.toNat) := by
  simp [byFrequency]

theorem byChar_iff {a b : Symbol × Count} : byChar a b = true ↔ a.1.toNat ≤ b.1.toNat := by
  simp [byChar]

theorem byFrequency_total (a b : Symbol × Count) : byFrequency a b = true ∨ byFrequency b a = true := by
  rw [byFrequency_iff, byFrequency_iff]
  omega

theorem byFrequency_trans (a b c : Symbol × Count) (hab : byFrequency a b = true) (hbc : byFrequency b c = true) :
    byFrequency a c = true := by
  rw [byFrequency_iff] at *
  omega

theorem orderedEntries_perm (o : OrderBy) (table : SymMap Count) : (orderedEntries o table).Perm table := by
  cases o <;> exact List.perm_insertionSort _ table

variable {table : SymMap Count}

/-- A table in canonical form is in the order of its symbols already. -/
theorem orderedEntries_char (hwf : SymMap.wf table = true) : orderedEntries .char table = table :=
  (((SymMap.wf_iff table).mp hwf).imp fun hlt => byChar_iff.mpr hlt.le).insertionSort_eq

theorem pairwise_byFrequency (table : SymMap Count) :
    (orderedEntries .frequency table).Pairwise fun a b => byFrequency a b = true :=
  have : Std.Total fun a b => byFrequency a b = true := ⟨byFrequency_total⟩
  have : IsTrans (Symbol × Count) fun a b => byFrequency a b = true := ⟨byFrequency_trans⟩
  List.pairwise_insertionSort _ table

/-- No symbol is listed twice, so entries of equal counts are strictly ascending. -/
theorem pairwise_frequency (hwf : SymMap.wf table = true) : (orderedEntries .frequency table).Pairwise fun a b =>
    b.2.toNat < a.2.toNat ∨ (a.2.toNat = b.2.toNat ∧ a.1.toNat < b.1.toNat) := by
  have hnodup : ((orderedEntries .frequency table).map Prod.fst).Nodup :=
    ((orderedEntries_perm .frequency table).map Prod.fst).nodup_iff.mpr (SymMap.wf_keys_nodup table hwf)
  refine (pairwise_byFrequency table).imp₂ (fun a b hle hne => ?_) (List.pairwise_map.mp hnodup)
  have hsymbol := Symbol.toNat_ne hne
  rw [byFrequency_iff] at hle
  omega

end OrderedEntries

/-! ### The reported list -/

section SortedFrequencies

variable (round2 : ℚ → ℚ) {table : SymMap Count}

theorem sortedFrequencies_of_total_zero (h : totalCount table = 0) (o : OrderBy) :
    sortedFrequencies round2 table o = [] :=
  if_pos h

theorem sortedFrequencies_of_total_ne_zero (h : totalCount table ≠ 0) (o : OrderBy) :
    sortedFrequencies round2 table o = (orderedEntries o table).map fun kv =>
      (kv.1, kv.2.toNat, round2 ((kv.2.toNat : ℚ) / (totalCount table : ℚ) * 100)) := by
  simp [sortedFrequencies, percentage, h]

end SortedFrequencies

/-! ### The ratio (R203) -/

section Ratio

variable (p : ReportParams) (text : List Symbol) (encoded : List Byte)

theorem rawRatio_nonneg : 0 ≤ rawRatio p text encoded := by
  rw [rawRatio]
  split
  · exact le_rfl
  · positivity

theorem rawRatio_of_originalSize_zero (h : p.originalSize text = 0) : rawRatio p text encoded = 0 := by
  simp [rawRatio, h]

theorem encoderStatistics_ratio : (encoderStatistics p text encoded).ratio = p.round2 (rawRatio p text encoded) := rfl

end Ratio

/-! ### The obligations -/

/-- Settles O59: the list is the table's entries sorted, and the order is strict because no symbol occurs twice. -/
theorem sortedFrequenciesOrdered : Obligations.SortedFrequenciesOrdered := by
  intro round2 table hwf
  refine ⟨sortedFrequencies_of_total_zero round2, fun htotal o => ?_⟩
  rw [sortedFrequencies_of_total_ne_zero round2 htotal]
  refine ⟨?entries, ?percentages, List.pairwise_map.mpr ?order⟩
  case entries => simpa [Function.comp_def] using orderedEntries_perm o table
  case percentages =>
    intro r hr
    obtain ⟨kv, -, rfl⟩ := List.mem_map.mp hr
    rfl
  case order =>
    cases o with
    | frequency => exact pairwise_frequency hwf
    | char =>
      rw [orderedEntries_char hwf]
      exact (SymMap.wf_iff table).mp hwf

/-- Settles O60: the exact quotient is no less than 0, and the rounding keeps the sign and 0. -/
theorem compressionRatioNonnegative : Obligations.CompressionRatioNonnegative := by
  intro p text encoded hsign hzero
  rw [encoderStatistics_ratio]
  refine ⟨hsign _ (rawRatio_nonneg p text encoded), fun hsize => ?_⟩
  rw [rawRatio_of_originalSize_zero p text encoded hsize, hzero]

end Sys2Proof.Machine

/-! PROOFS of the family 60_exceptions.md: what each command can raise, and what a failed command does when issued again. -/

namespace Sys2Proof.Machine

/-! ### A command as its stages and its end (R231) -/

section CommandStages

/-- What command `i` does before its end: on success the state it makes, else the code it raises. -/
def commandStages : Instr → State → Except ErrCode State
  | .clear, s => .ok s.clearInputs.clearWork
  | .analyze, s => stageAnalyze s
  | .build, s => stageBuild s
  | .tser, s => stageTser s
  | .tdes, s => stageTdes s
  | .gencodes, s => stageGencodes s
  | .buildtxt, s => stagesBuildtxt s.clearWork
  | .mapbits, s => stageMapbits s
  | .pack, s => stagePack s
  | .assemble, s => stageAssemble s
  | .encode, s => if s.txi.length = 0 then stageEmptyFile s.clearWork else stagesEncode s.clearWork
  | .parse, s => stageParse s
  | .unpack, s => stageUnpack s
  | .decode, s => stagesDecode s.clearWork

variable (i : Instr) (s : State)

theorem exec_eq_endCommand : exec i s = endCommand (emptied i s) (commandStages i s) := by
  cases i <;> rfl

/-- A command writes its write set whole and reads none of it. -/
theorem commandStages_emptied : commandStages i (emptied i s) = commandStages i s := by
  cases i <;> rfl

theorem emptied_emptied : emptied i (emptied i s) = emptied i s := by
  cases i <;> rfl

theorem emptied_endOk : emptied i s.endOk = (emptied i s).endOk := by
  cases i <;> rfl

theorem errBlind_commandStages : ErrBlind (commandStages i) := by
  cases i with
  | clear => exact .write fun _ => rfl
  | analyze => exact errBlind_stageAnalyze
  | build => exact errBlind_stageBuild
  | tser => exact errBlind_stageTser
  | tdes => exact errBlind_stageTdes
  | gencodes => exact errBlind_stageGencodes
  | buildtxt => exact fun s => errBlind_stagesBuildtxt s.clearWork
  | mapbits => exact errBlind_stageMapbits
  | pack => exact errBlind_stagePack
  | assemble => exact errBlind_stageAssemble
  | encode => exact fun s => errBlind_encodeArms s.clearWork
  | parse => exact errBlind_stageParse
  | unpack => exact errBlind_stageUnpack
  | decode => exact fun s => errBlind_stagesDecode s.clearWork

theorem exec_emptied : exec i (emptied i s) = exec i s := by
  rw [exec_eq_endCommand, exec_eq_endCommand, emptied_emptied, commandStages_emptied]

/-- No command reads the error registers. -/
theorem exec_endOk : exec i s.endOk = exec i s := by
  rw [exec_eq_endCommand, exec_eq_endCommand, emptied_endOk, errBlind_commandStages i s]
  cases commandStages i s <;> rfl

/-- The state a failed command leaves answers the command as the state before it did. -/
theorem exec_emptied_takeError (e : ErrCode) : exec i ((emptied i s).takeError e) = exec i s := by
  calc exec i ((emptied i s).takeError e)
    _ = exec i (emptied i s).endOk := (exec_endOk i ((emptied i s).takeError e)).symm
    _ = exec i (emptied i s) := exec_endOk i (emptied i s)
    _ = exec i s := exec_emptied i s

end CommandStages

/-! ### The codes a computation can raise (R221) -/

section RaisesOnly

variable {α β : Type} {codes codes' : List ErrCode} {x y : Except ErrCode α} {f : α → Except ErrCode β}

/-- `r` raises no code but those listed. -/
def RaisesOnly (codes : List ErrCode) (r : Except ErrCode α) : Prop := ∀ e, r = .error e → e ∈ codes

theorem RaisesOnly.ok {a : α} : RaisesOnly codes (.ok a) := nofun

theorem RaisesOnly.error {e : ErrCode} (he : e ∈ codes) : RaisesOnly codes (.error e : Except ErrCode α) := by
  rintro _ ⟨⟩
  exact he

theorem RaisesOnly.ite {c : Prop} [Decidable c] (hx : RaisesOnly codes x) (hy : RaisesOnly codes y) :
    RaisesOnly codes (if c then x else y) := by
  split
  · exact hx
  · exact hy

theorem RaisesOnly.check {c : Prop} [Decidable c] {e : ErrCode} (he : e ∈ codes) (hx : RaisesOnly codes x) :
    RaisesOnly codes (if c then .error e else x) :=
  .ite (.error he) hx

/-- The second computation is only reached with what the first has made. -/
theorem RaisesOnly.bind (hx : RaisesOnly codes x) (hf : ∀ a, x = .ok a → RaisesOnly codes (f a)) :
    RaisesOnly codes (x >>= f) := by
  intro e h
  obtain h | ⟨a, ha, h⟩ := bind_error.mp h
  · exact hx e h
  · exact hf a ha e h

theorem RaisesOnly.mono (hx : RaisesOnly codes x) (hsub : ∀ e ∈ codes, e ∈ codes') : RaisesOnly codes' x :=
  fun e h => hsub e (hx e h)

end RaisesOnly

/-! ### The codes of each stage (R221) -/

section StageRaises

variable {s : State}

theorem raisesOnly_stageAnalyze : RaisesOnly [.capacity] (stageAnalyze s) :=
  .check (by decide) .ok

/-- BUILD overflows only where the counts sum to 2^32 or more (R122). -/
theorem buildWith_error {before : QNode → QNode → Bool} {nodeMax : Nat} {ft : SymMap Count} {e : ErrCode}
    (h : buildWith before nodeMax ft = .error e) :
    e = .capacity ∨ (e = .freqOverflow ∧ 4294967296 ≤ totalCount ft) := by
  match ft with
  | [] => cases h
  | [(c, n)] =>
    obtain ⟨-, rfl⟩ | ⟨-, h⟩ := check_error.mp h
    · exact .inl rfl
    · cases h
  | x :: y :: ft =>
    obtain ⟨-, rfl⟩ | ⟨hcap, -⟩ := check_error.mp h
    · exact .inl rfl
    · obtain ⟨t, ht, -⟩ | ⟨herr, hsum⟩ :=
        buildWith_cases (before := before) (ft := x :: y :: ft) (Nat.le_add_left 2 _) (Nat.not_lt.mp hcap)
      · rw [ht] at h
        cases h
      · exact .inr ⟨Except.error.inj (h.symm.trans herr), hsum⟩

theorem raisesOnly_stageBuild : RaisesOnly [.capacity, .freqOverflow] (stageBuild s) := by
  refine .bind (fun e h => ?_) fun _ _ => .ok
  obtain rfl | ⟨rfl, -⟩ := buildWith_error h <;> decide

theorem raisesOnly_stageBuild_of_sum (hsum : totalCount s.ft < 4294967296) :
    RaisesOnly [.capacity] (stageBuild s) := by
  refine .bind (fun e h => ?_) fun _ _ => .ok
  obtain rfl | ⟨-, hover⟩ := buildWith_error h
  · decide
  · omega

theorem raisesOnly_stageTser : RaisesOnly [.capacity] (stageTser s) :=
  .check (by decide) (.check (by decide) .ok)

theorem raisesOnly_stageTdes : RaisesOnly [.treeSyntax, .capacity] (stageTdes s) := by
  rw [stageTdes]
  split
  · exact .error (by decide)
  · exact .ok
  · exact .check (by decide) .ok

theorem raisesOnly_stageGencodes : RaisesOnly [.capacity] (stageGencodes s) :=
  .check (by decide) (.check (by decide) .ok)

theorem raisesOnly_mapBits (ct : SymMap BitStr) (text : List Symbol) :
    RaisesOnly [.noCode] (mapBits ct text) := by
  induction text with
  | nil => exact .ok
  | cons c text ih =>
    rw [mapBits]
    split
    · exact .error (by decide)
    · exact ih.bind fun _ _ => .ok

theorem raisesOnly_stageMapbits : RaisesOnly [.noCode, .capacity] (stageMapbits s) :=
  ((raisesOnly_mapBits s.ct s.txi).mono (by decide)).bind fun _ _ => .check (by decide) .ok

theorem raisesOnly_stageMapbits_of_codes (h : ∀ c ∈ s.txi, (SymMap.get? c s.ct).isSome = true) :
    RaisesOnly [.capacity] (stageMapbits s) := by
  rw [stageMapbits, mapBits_of_codes h]
  exact .check (by decide) .ok

theorem raisesOnly_stagePack : RaisesOnly [.capacity] (stagePack s) :=
  .check (by decide) .ok

theorem raisesOnly_stageAssemble : RaisesOnly [.capacity] (stageAssemble s) :=
  .check (by decide) .ok

theorem raisesOnly_stageEmptyFile : RaisesOnly [.capacity] (stageEmptyFile s) :=
  .check (by decide) .ok

theorem raisesOnly_parseContainer (b : List Byte) :
    RaisesOnly [.short, .magic, .version, .padding, .treeLen] (parseContainer b) :=
  .check (by decide) (.check (by decide) (.check (by decide) (.check (by decide) (.check (by decide) .ok))))

theorem raisesOnly_stageParse : RaisesOnly [.short, .magic, .version, .padding, .treeLen] (stageParse s) :=
  (raisesOnly_parseContainer s.byi).bind fun _ _ => .ok

theorem raisesOnly_walk (root t : HuffTree) (bits : BitStr) (n : Nat) :
    RaisesOnly [.payloadShort, .traversal, .leafNoSym] (walk root t bits n) := by
  fun_induction walk root t bits n
  case case1 => exact .ok
  case case2 => exact .error (by decide)
  case case3 => exact .error (by decide)
  case case4 => exact .error (by decide)
  case case5 ihNext => exact ihNext.bind fun _ _ => .ok
  case case6 ihDeeper => exact ihDeeper

theorem raisesOnly_stageUnpack :
    RaisesOnly [.capacity, .payloadShort, .traversal, .leafNoSym] (stageUnpack s) :=
  .check (by decide) (.bind (.ite .ok ((raisesOnly_walk _ _ _ _).mono (by decide))) fun _ _ => .check (by decide) .ok)

end StageRaises

/-! ### The codes of BUILDTXT, ENCODE and DECODE (R150, R154, R174) -/

section MacroRaises

variable {s t : State}

/-- After ANALYZE the counts sum to the length of the text, so BUILD does not overflow. -/
theorem raisesOnly_stageBuild_of_stageAnalyze (hlen : s.txi.length < 4294967296) (h : stageAnalyze s = .ok t) :
    RaisesOnly [.capacity] (stageBuild t) := by
  refine raisesOnly_stageBuild_of_sum ?_
  rwa [stageAnalyze_ft h, totalCount_countSymbols hlen]

theorem builtFrom_of_buildWith {before : QNode → QNode → Bool} {nodeMax : Nat} {ft : SymMap Count} {tree : HuffTree}
    (h : buildWith before nodeMax ft = .ok tree) : BuiltFrom ft tree := by
  match ft with
  | [] =>
    cases h
    exact ⟨.refl _, le_rfl, le_rfl⟩
  | [(c, n)] =>
    obtain ⟨-, h⟩ := check_ok.mp h
    cases h
    exact ⟨.refl _, le_rfl, le_rfl⟩
  | x :: y :: ft => exact (merges_of_buildWith (Nat.le_add_left 2 _) h).builtFrom

/-- BUILDTXT leaves a code for every symbol of the text. -/
theorem isSome_code_of_stagesBuildtxt (h : stagesBuildtxt s = .ok t) :
    ∀ c ∈ t.txi, (SymMap.get? c t.ct).isSome = true := by
  obtain ⟨s₁, h₁, s₂, h₂, h₃⟩ := stagesBuildtxt_ok.mp h
  obtain ⟨-, rfl⟩ := stageAnalyze_ok.mp h₁
  obtain ⟨tree, htree, rfl⟩ := stageBuild_ok.mp h₂
  obtain ⟨-, -, rfl⟩ := stageGencodes_ok.mp h₃
  exact fun c hc => (builtFrom_of_buildWith htree).isSome_code ((mem_keys_countSymbols s.txi c).mpr hc)

theorem raisesOnly_stagesBuildtxt (hlen : s.txi.length < 4294967296) : RaisesOnly [.capacity] (stagesBuildtxt s) :=
  raisesOnly_stageAnalyze.bind fun _ h₁ =>
    (raisesOnly_stageBuild_of_stageAnalyze hlen h₁).bind fun _ _ => raisesOnly_stageGencodes

/-- E_NO_CODE is not among ENCODE's codes: MAPBITS comes after BUILDTXT's stages. -/
theorem raisesOnly_stagesEncode (hlen : s.txi.length < 4294967296) : RaisesOnly [.capacity] (stagesEncode s) := by
  refine raisesOnly_stageAnalyze.bind fun s₁ h₁ => (raisesOnly_stageBuild_of_stageAnalyze hlen h₁).bind fun s₂ h₂ =>
    raisesOnly_stageGencodes.bind fun s₃ h₃ => .bind ?mapbits fun _ _ =>
    raisesOnly_stagePack.bind fun _ _ => raisesOnly_stageTser.bind fun _ _ => raisesOnly_stageAssemble
  exact raisesOnly_stageMapbits_of_codes
    (isSome_code_of_stagesBuildtxt (stagesBuildtxt_ok.mpr ⟨s₁, h₁, s₂, h₂, h₃⟩))

theorem raisesOnly_stagesDecode : RaisesOnly (mayRaise .decode) (stagesDecode s) :=
  (raisesOnly_stageParse.mono (by decide)).bind fun _ _ => .ite .ok
    ((raisesOnly_stageTdes.mono (by decide)).bind fun _ _ => .ite .ok (raisesOnly_stageUnpack.mono (by decide)))

/-- Every command raises codes of its own row of R221 alone. -/
theorem raisesOnly_commandStages (i : Instr) (hlen : s.txi.length < 4294967296) :
    RaisesOnly (mayRaise i) (commandStages i s) := by
  cases i with
  | clear => exact .ok
  | analyze => exact raisesOnly_stageAnalyze
  | build => exact raisesOnly_stageBuild
  | tser => exact raisesOnly_stageTser
  | tdes => exact raisesOnly_stageTdes
  | gencodes => exact raisesOnly_stageGencodes
  | buildtxt => exact raisesOnly_stagesBuildtxt hlen
  | mapbits => exact raisesOnly_stageMapbits
  | pack => exact raisesOnly_stagePack
  | assemble => exact raisesOnly_stageAssemble
  | encode => exact .ite raisesOnly_stageEmptyFile (raisesOnly_stagesEncode hlen)
  | parse => exact raisesOnly_stageParse
  | unpack => exact raisesOnly_stageUnpack
  | decode => exact raisesOnly_stagesDecode

end MacroRaises

/-! ### The obligations -/

/-- Settles O52: a command ends as its stages do, and these raise its own codes alone. -/
theorem commandEndsAsErrorEntrySays : Obligations.CommandEndsAsErrorEntrySays := by
  intro i s hlen
  rw [exec_eq_endCommand]
  cases hstages : commandStages i s with
  | ok u => exact ⟨u.endOk, rfl, .inl ⟨rfl, rfl⟩⟩
  | error e => exact ⟨(emptied i s).takeError e, rfl, .inr ⟨e, raisesOnly_commandStages i hlen e hstages, rfl⟩⟩

/-- Settles O53: what the failed command has changed, its write set and the error registers, it does not read. -/
theorem reissueRepeatsError : Obligations.ReissueRepeatsError := by
  intro i s t h he
  obtain ⟨e, -, rfl⟩ := endCommand_next_error ((exec_eq_endCommand i s).symm.trans h) he
  rw [exec_emptied_takeError, h]

end Sys2Proof.Machine

/-! PROOFS of the family 70_reset_and_hazards.md: what the macro commands write between CLEAR_WORK and their end. -/

namespace Sys2Proof.Machine

/-! ### What the stages of a macro command write together (R150, R154, R174) -/

section MacroStages

variable {s t : State}

theorem stagesBuildtxt_frame (h : stagesBuildtxt s = .ok t) : t = { s with ft := t.ft, tree := t.tree, ct := t.ct } := by
  obtain ⟨s₁, h₁, s₂, h₂, h₃⟩ := stagesBuildtxt_ok.mp h
  obtain ⟨-, rfl⟩ := stageAnalyze_ok.mp h₁
  obtain ⟨_, -, rfl⟩ := stageBuild_ok.mp h₂
  obtain ⟨-, -, rfl⟩ := stageGencodes_ok.mp h₃
  rfl

theorem stagesEncode_frame (h : stagesEncode s = .ok t) :
    t = { s with
      ft := t.ft, tree := t.tree, ct := t.ct, bit := t.bit, ser := t.ser, pay := t.pay, byo := t.byo,
      hdrVer := t.hdrVer, hdrPad := t.hdrPad, hdrOlen := t.hdrOlen, hdrTlen := t.hdrTlen } := by
  obtain ⟨_, _, -, rfl⟩ := encodes_of_stagesEncode h
  rfl

/-- DECODE's stages end after PARSE, after TDES or with UNPACK; an early end writes TXO itself. -/
theorem stagesDecode_frame (h : stagesDecode s = .ok t) :
    t = { s with
      tree := t.tree, bit := t.bit, ser := t.ser, pay := t.pay, txo := t.txo,
      hdrVer := t.hdrVer, hdrPad := t.hdrPad, hdrOlen := t.hdrOlen, hdrTlen := t.hdrTlen } := by
  obtain ⟨p, hparse, hend⟩ := stagesDecode_ok.mp h
  obtain ⟨_, -, rfl⟩ := stageParse_ok.mp hparse
  obtain ⟨-, rfl⟩ | ⟨-, q, htdes, hend⟩ := hend
  · rfl
  obtain ⟨_, -, rfl, -⟩ := stageTdes_ok.mp htdes
  obtain ⟨-, rfl⟩ | ⟨-, hunpack⟩ := hend
  · rfl
  · obtain ⟨-, _, -, -, rfl⟩ := stageUnpack_ok.mp hunpack
    rfl

end MacroStages

/-! ### The obligation -/

/-- Settles O55: a macro command leaves the CLEAR_WORK state with what its stages wrote, or as it is when one of them
raised. ENCODE's arm for the empty text needs no case of its own: it leaves what the general arm would. -/
theorem macroFrames : Obligations.MacroFrames := by
  intro s t
  refine ⟨fun h => ?buildtxt, fun h => ?encode, fun h => ?decode⟩
  case buildtxt =>
    obtain ⟨_, hu, rfl⟩ | ⟨_, -, rfl⟩ := endCommand_next h
    exacts [congrArg State.endOk (stagesBuildtxt_frame hu), rfl]
  case encode =>
    cases he : t.err with
    | false =>
      obtain ⟨_, hu, rfl⟩ := stagesEncode_of_exec h he
      exact congrArg State.endOk (stagesEncode_frame hu)
    | true =>
      obtain ⟨_, -, rfl⟩ := endCommand_next_error h he
      rfl
  case decode =>
    obtain ⟨_, hu, rfl⟩ | ⟨_, -, rfl⟩ := endCommand_next h
    exacts [congrArg State.endOk (stagesDecode_frame hu), rfl]

end Sys2Proof.Machine
